-- ==== Sys2Proof/Word.lean ====
section
/-! DEFINITION. The words of the block: what the spec treats as bits (20_memory.md R55, R56), and the pixel
(10_state.md R22). -/

namespace Sys2Proof

/-- A command word, and a word read from STATUS or RDATA (20_memory.md R56). -/
abbrev Word := BitVec 32

/-- One intensity channel of a pixel (10_state.md R22). -/
abbrev Byte := BitVec 8

/-- An entry of the signal generator's queue, in wire order (42_transmitter.md R102). -/
abbrev PixelWord := BitVec 24

/-- A pixel in logical order red, green, blue, each channel 0..255 (00_scope.md R12, 10_state.md R22). -/
structure Pixel where
  r : Byte
  g : Byte
  b : Byte
  deriving DecidableEq, Repr, Inhabited

/-- The black pixel (0, 0, 0). -/
def Pixel.black : Pixel := ⟨0, 0, 0⟩

end Sys2Proof
end

