-- ==== Sys2Proof/Config.lean ====
section
/-! DEFINITION. The parameters of the block (00_scope.md R6, R7, 10_state.md R46): the constants the source gives, and the
`OPEN` parameters and choices the spec leaves open, which are opaque constants with no value. Also the names of what the
outside world can do, since the choice of the next event is one of the open values. -/

namespace Sys2Proof

/-- The two buttons: `b0` is button 0 = "button A", `b1` is button 1 = "button B" (00_scope.md R8, R18). -/
inductive Button where
  | b0
  | b1
  deriving DecidableEq, Repr, Inhabited

/-- The two read-only registers of the host port (10_state.md R41, R42). -/
inductive HostReg where
  | status
  | rdata
  deriving DecidableEq, Repr, Inhabited

/-- One step of the whole system: an agent of the block steps (00_scope.md R8, 30_encoding.md R71), or an input arrives
from outside (notes/assumptions/1.md). -/
inductive Event where
  /-- INIT: the channel acquisition (42_transmitter.md R101). -/
  | init
  /-- TXD: push one pixel (42_transmitter.md R105). -/
  | txd
  /-- TXS: load a word or send one bit (42_transmitter.md R107, R108). -/
  | txs
  /-- TMR: one microsecond passes, TICK_US (43_debounce.md R121). -/
  | tick
  /-- DEB_b: sample button b (43_debounce.md R124). -/
  | deb (b : Button)
  /-- HOST: the word on CMD is accepted, or held (10_state.md R43). -/
  | host
  /-- HOST reads STATUS or RDATA (10_state.md R42). -/
  | read (reg : HostReg)
  /-- Outside: the host has one more word to present on CMD, after those it already has. -/
  | present (w : Word)
  /-- Outside: the line BTN[b] takes a level (10_state.md R44: high is `true`). -/
  | button (b : Button) (level : Bool)
  /-- Outside: reset, power-up included (70_reset_and_hazards.md R155). -/
  | reset
  deriving DecidableEq, Repr, Inhabited

namespace Config

/-- S, the grid side (00_scope.md R6: source §4.1, §6). -/
abbrev gridSide : Nat := 5

/-- N = S * S, the number of LEDs and the length of the pixel buffer (00_scope.md R6); the types of State and of its indices
write it out as 25. -/
abbrev ledCount : Nat := 25

/-- WINDOW_MS, the debounce window in milliseconds (00_scope.md R6). -/
abbrev windowMs : Nat := 400

/-- SETTLE_US, the hold after a frame in microseconds (00_scope.md R6). -/
abbrev settleUs : Nat := 100

/-- BIT_RATE in bits per second (00_scope.md R6). -/
abbrev bitRateHz : Nat := 800000

/-- T_BIT = 1 / BIT_RATE in nanoseconds: 1250 ns = 1.25 µs (00_scope.md R6, 42_transmitter.md R110). -/
abbrev tBitNs : Nat := 1250

/-- LIT, the colour of a lit glyph cell (00_scope.md R6, 41_glyph_render.md R98). -/
def lit : Pixel := ⟨40, 0, 0⟩

/-- GLYPH, the ten bitmaps: `OPEN`, no property assumed (41_glyph_render.md R95; notes/assumptions/7.md). -/
opaque glyph : Fin 10 → BitVec 25

/-- FIFO_DEPTH - 1: `OPEN` (00_scope.md R6; notes/assumptions/8.md). -/
opaque fifoSpare : Nat

/-- FIFO_DEPTH, at least 1 (00_scope.md R6, 10_state.md R33). -/
def fifoDepth : Nat := fifoSpare + 1

/-- BANK_AVAIL, which channel bank has a free channel at INIT: `OPEN` (42_transmitter.md R101; notes/assumptions/9.md). -/
opaque bankAvail : Fin 2 → Bool

/-- T0H in nanoseconds, at most T_BIT: `OPEN` (42_transmitter.md R110; notes/assumptions/10.md). -/
opaque t0hNs : Fin (tBitNs + 1)

/-- T1H in nanoseconds, at most T_BIT: `OPEN` (42_transmitter.md R110; notes/assumptions/10.md). -/
opaque t1hNs : Fin (tBitNs + 1)

/-- The choice no rule makes: which agent steps next, which word the host presents, what the lines do. A fresh free value
for each number (60_exceptions.md R145: "A model must admit every interleaving"; notes/assumptions/1.md). -/
opaque freeEvent : Nat → Event

end Config

end Sys2Proof
end

