-- ==== Sys2Proof/Syntax.lean ====
section
/-! DEFINITION. The command words as syntax: one constructor per row of spec/opcode_table.json (30_encoding.md R66, R68). -/

namespace Sys2Proof

/-- A decoded command. Operands are the encoded fields, unsigned (30_encoding.md R67); a value that is encodable but not
legal is still a command, and its rule raises the error. -/
inductive Instr where
  /-- NOP, OP 0x0 (40_mapper_and_buffer.md R83). -/
  | nop
  /-- CLEAR, OP 0x1 (40_mapper_and_buffer.md R84). -/
  | clear
  /-- SETCOLOR, OP 0x2: R [23:16], G [15:8], B [7:0] (40_mapper_and_buffer.md R85). -/
  | setcolor (r g b : BitVec 8)
  /-- SETXY, OP 0x3: X [2:0], Y [6:4] (40_mapper_and_buffer.md R86). -/
  | setxy (x y : BitVec 3)
  /-- RENDER, OP 0x4: D [3:0] (41_glyph_render.md R96). -/
  | render (d : BitVec 4)
  /-- START, OP 0x5 (42_transmitter.md R103). -/
  | start
  /-- MAP, OP 0x6: X [2:0], Y [6:4] (40_mapper_and_buffer.md R87). -/
  | map (x y : BitVec 3)
  /-- RDPIX, OP 0x7: I [4:0] (40_mapper_and_buffer.md R88). -/
  | rdpix (i : BitVec 5)
  /-- A reserved opcode, OP 0x8 to 0xF (60_exceptions.md R138). -/
  | reserved (op : BitVec 4)
  deriving DecidableEq, Repr, Inhabited

end Sys2Proof
end

