-- ==== Sys2Proof/WellFormed.lean ====
section
/-! DEFINITION. When a command is one that some word encodes. Every operand field is as wide as its bits, so the one check
left is that a reserved opcode is 0x8 to 0xF (30_encoding.md R67, R68, R70). -/

namespace Sys2Proof

/-- The command is the decoding of some word. -/
def Instr.wellFormed : Instr → Bool
  | .nop => true
  | .clear => true
  | .setcolor _ _ _ => true
  | .setxy _ _ => true
  | .render _ => true
  | .start => true
  | .map _ _ => true
  | .rdpix _ => true
  | .reserved op => decide (8 ≤ op.toNat)

end Sys2Proof
end

