-- ==== Sys2Proof/Decode.lean ====
section
/-! DEFINITION. The decoder of command words, total on all 2^32 words (30_encoding.md R65 to R74), the opcode map as a table
(R68), and the encoder (R66, R75). -/

namespace Sys2Proof

/-- OP = cmd[31:28] in every format (30_encoding.md R66). -/
def opField (w : Word) : BitVec 4 := w.extractLsb' 28 4

/-- The decoder (30_encoding.md R74). Bits a format does not list are ignored (R69). -/
def decode (w : Word) : Instr :=
  match (opField w).toNat with
  | 0 => .nop
  | 1 => .clear
  | 2 => .setcolor (w.extractLsb' 16 8) (w.extractLsb' 8 8) (w.extractLsb' 0 8)
  | 3 => .setxy (w.extractLsb' 0 3) (w.extractLsb' 4 3)
  | 4 => .render (w.extractLsb' 0 4)
  | 5 => .start
  | 6 => .map (w.extractLsb' 0 3) (w.extractLsb' 4 3)
  | 7 => .rdpix (w.extractLsb' 0 5)
  | _ => .reserved (opField w)

/-- Why an access to CMD is no command. -/
inductive DecodeReject where
  /-- The access is not one whole 32-bit word (20_memory.md R56; safe, the spec supports no other access). -/
  | notWholeWord (bits : Nat)
  deriving DecidableEq, Repr

/-- The decoder on an access of `bits` bits with value `v`: only whole 32-bit words are accesses of the port
(20_memory.md R56, 92_eei_decisions.md D31). -/
def decodeAccess (bits v : Nat) : Except DecodeReject Instr :=
  if bits = 32 then .ok (decode (BitVec.ofNat 32 v)) else .error (.notWholeWord bits)

/-- The command word whose low `nbits` bits are those of `w`, every bit above them 0. -/
def tableWord (nbits w : Nat) : Word := BitVec.ofNat 32 (w % 2 ^ nbits)

/-- What the decoder reads from a row's bits as spec/opcode_table.json numbers them; no row is longer than a word. -/
def decodeTableWord (nbits w : Nat) : Option Instr :=
  if nbits ≤ 32 then some (decode (tableWord nbits w)) else none

/-- The mnemonic of a command, as spec/opcode_table.json spells it. -/
def Instr.mnemonic : Instr → String
  | .nop => "NOP"
  | .clear => "CLEAR"
  | .setcolor _ _ _ => "SETCOLOR"
  | .setxy _ _ => "SETXY"
  | .render _ => "RENDER"
  | .start => "START"
  | .map _ _ => "MAP"
  | .rdpix _ => "RDPIX"
  | .reserved _ => "RESERVED"

/-- A row of the opcode map: a word `w` selects it when `w &&& mask = value` (30_encoding.md R68). -/
structure OpcodeRow where
  mnemonic : String
  value : Word
  mask : Word
  deriving DecidableEq, Repr

/-- The opcode map (30_encoding.md R68). -/
def opcodeMap : List OpcodeRow :=
  [⟨"NOP", 0x00000000, 0xF0000000⟩, ⟨"CLEAR", 0x10000000, 0xF0000000⟩, ⟨"SETCOLOR", 0x20000000, 0xF0000000⟩,
   ⟨"SETXY", 0x30000000, 0xF0000000⟩, ⟨"RENDER", 0x40000000, 0xF0000000⟩, ⟨"START", 0x50000000, 0xF0000000⟩,
   ⟨"MAP", 0x60000000, 0xF0000000⟩, ⟨"RDPIX", 0x70000000, 0xF0000000⟩, ⟨"RESERVED", 0x80000000, 0x80000000⟩]

/-- The bits a command's format lists; the others are reserved (30_encoding.md R66). -/
def Instr.fieldMask : Instr → Word
  | .nop => 0xF0000000
  | .clear => 0xF0000000
  | .setcolor _ _ _ => 0xF0FFFFFF
  | .setxy _ _ => 0xF0000077
  | .render _ => 0xF000000F
  | .start => 0xF0000000
  | .map _ _ => 0xF0000077
  | .rdpix _ => 0xF000001F
  | .reserved _ => 0xF0000000

/-- The encoder, from the bit pictures of 30_encoding.md R66, reserved bits 0 (R69, R75). -/
def encode : Instr → Word
  | .nop => 0x0#4 ++ 0#28
  | .clear => 0x1#4 ++ 0#28
  | .setcolor r g b => 0x2#4 ++ 0#4 ++ r ++ g ++ b
  | .setxy x y => 0x3#4 ++ 0#21 ++ y ++ 0#1 ++ x
  | .render d => 0x4#4 ++ 0#24 ++ d
  | .start => 0x5#4 ++ 0#28
  | .map x y => 0x6#4 ++ 0#21 ++ y ++ 0#1 ++ x
  | .rdpix i => 0x7#4 ++ 0#23 ++ i
  | .reserved op => op ++ 0#28

end Sys2Proof
end

