-- ==== Sys2Proof/Machine/State.lean ====
section
/-! DEFINITION. The complete state of the block (10_state.md R21, R45) and, below it, what stands outside the block: the words
presented on CMD, the button lines and the schedule. Reset values: 70_reset_and_hazards.md R155. -/

namespace Sys2Proof.Machine

/-- TX_STATE (10_state.md R31). -/
inductive TxState where
  /-- No frame in progress, no hold. -/
  | idle
  /-- A frame is being pushed and serialized. -/
  | drain
  /-- The low-time hold after a frame. -/
  | settle
  deriving DecidableEq, Repr, Inhabited

/-- An event on LED_DOUT (10_state.md R45). -/
inductive LedEvent where
  /-- One symbol (42_transmitter.md R110). -/
  | bit (b : Bool)
  /-- The LEDs latch the frame (42_transmitter.md R114). -/
  | latch
  deriving DecidableEq, Repr, Inhabited

/-- The record `Notify(b, v)`: button b took the new toggle value v (43_debounce.md R129). -/
structure Notify where
  button : Button
  value : Bool
  deriving DecidableEq, Repr, Inhabited

/-- The state of one debounce instance (10_state.md R36 to R38). -/
structure DebUnit where
  /-- LAST_TS[b]: NOW_MS at the last accepted edge. -/
  lastTs : BitVec 32
  /-- TOG[b]. -/
  tog : Bool
  /-- PREV[b]: the level the previous sample saw. -/
  prev : Bool
  deriving DecidableEq, Repr, Inhabited

/-- The state of the block and of its surroundings. -/
structure State where
  /-- PB[0..24] (10_state.md R22). -/
  pb : Vector Pixel 25
  /-- COLOR (10_state.md R23). -/
  color : Pixel
  /-- MAP_IDX (10_state.md R24). -/
  mapIdx : BitVec 5
  /-- RDATA (10_state.md R25). -/
  rdata : Word
  /-- ERR (10_state.md R26). -/
  err : Bool
  /-- ERR_CODE (10_state.md R27). -/
  errCode : BitVec 3
  /-- INIT_DONE (10_state.md R28). -/
  initDone : Bool
  /-- FATAL (10_state.md R29). -/
  fatal : Bool
  /-- CH_OK (10_state.md R30). -/
  chOk : Bool
  /-- CH_BANK: 0 primary, 1 alternate (10_state.md R30). -/
  chBank : Fin 2
  /-- TX_STATE (10_state.md R31). -/
  txState : TxState
  /-- TX_IDX, 0..25 (10_state.md R32). -/
  txIdx : Fin 26
  /-- FIFO, the head first (10_state.md R33). -/
  fifo : List PixelWord
  /-- SHREG (10_state.md R34). -/
  shreg : PixelWord
  /-- SHCNT, 0..24 (10_state.md R34). -/
  shcnt : Fin 25
  /-- SETTLE_CNT, 0..SETTLE_US (10_state.md R35). -/
  settleCnt : Fin 101
  /-- US_PRESC, 0..999 (10_state.md R39). -/
  usPresc : Fin 1000
  /-- NOW_MS, wrapping (10_state.md R39). -/
  nowMs : BitVec 32
  /-- LAST_TS[0], TOG[0], PREV[0]. -/
  deb0 : DebUnit
  /-- LAST_TS[1], TOG[1], PREV[1]. -/
  deb1 : DebUnit
  /-- LEDLOG, the oldest event first; no step reads it (10_state.md R45). -/
  ledLog : List LedEvent
  /-- EVT, the oldest record first; no step reads it (10_state.md R45). -/
  evt : List Notify
  /-- Outside: the words the host presents on CMD, in order; the head is on the port (10_state.md R43). -/
  cmdQ : List Word
  /-- Outside: the level of BTN[0] (10_state.md R44). -/
  btn0 : Bool
  /-- Outside: the level of BTN[1] (10_state.md R44). -/
  btn1 : Bool
  /-- The model's own: which events come next (notes/assumptions/1.md). -/
  script : List Event
  /-- The model's own: the number of the next free choice (notes/assumptions/1.md). -/
  freeCount : Nat
  deriving DecidableEq, Repr

/-- Why the model stops: states the spec gives no meaning (00_scope.md R9). -/
inductive Fault where
  /-- Raised by TICK_US when TX_STATE = SETTLE and SETTLE_CNT = 0, where the count of 42_transmitter.md R114 would go below
  zero. Safe: the spec gives no effect there, and no reachable state has it (notes/assumptions/6.md). -/
  | settleUnderflow
  deriving DecidableEq, Repr

/-- Why an instruction has no meaning. -/
inductive Refusal where
  /-- Raised by exec alone, for an instruction that has no meaning yet; safe. No arm of this model answers it. -/
  | notModelled (mnemonic : String)
  deriving DecidableEq, Repr

/-- What a step or an instruction answers. -/
abbrev Result := Host.Outcome State Fault Refusal

/-- A debounce instance after reset (10_state.md R36 to R38). -/
def DebUnit.reset : DebUnit := { lastTs := 0, tog := false, prev := true }

/-- The machine right after reset (70_reset_and_hazards.md R155). The spec gives every register of the block its value; the
five fields outside the block are the model's choice (notes/assumptions/1.md, 3.md, 4.md). -/
def State.reset : State where
  pb := Vector.replicate 25 Pixel.black
  color := Pixel.black
  mapIdx := 0
  rdata := 0
  err := false
  errCode := 0
  initDone := false
  fatal := false
  chOk := false
  chBank := 0
  txState := .idle
  txIdx := 0
  fifo := []
  shreg := 0
  shcnt := 0
  settleCnt := 0
  usPresc := 0
  nowMs := 0
  deb0 := DebUnit.reset
  deb1 := DebUnit.reset
  ledLog := []
  evt := []
  cmdQ := []
  btn0 := true
  btn1 := true
  script := []
  freeCount := 0

end Sys2Proof.Machine
end

