-- ==== Sys2Proof/Machine/Ops.lean ====
section
/-! DEFINITION. The operations every step is made of: the pixel buffer, the two layouts of a pixel in a word, the recording
of an error (the block's only exception mechanism), the output logs, the debounce registers and reset. -/

namespace Sys2Proof.Machine

/-- `PB[i]` (00_scope.md R12, 10_state.md R22): one whole pixel (20_memory.md R57). -/
def readPixel (pb : Vector Pixel 25) (i : Fin 25) : Pixel := pb[i]

/-- `PB[i] <- p` on the buffer alone (00_scope.md R12). -/
def setPixel (pb : Vector Pixel 25) (i : Fin 25) (p : Pixel) : Vector Pixel 25 := pb.set i p

/-- The buffer with every pixel (0,0,0), "clear the Pixel Buffer to black" (40_mapper_and_buffer.md R84, 41_glyph_render.md
R96). -/
def blackBuffer : Vector Pixel 25 := Vector.replicate 25 Pixel.black

/-- PB replaced as a whole. -/
def State.withPb (pb : Vector Pixel 25) (s : State) : State := { s with pb := pb }

/-- The logical layout `(r, g, b)` as RDATA holds it: `{0x00, r, g, b}` (10_state.md R25, 20_memory.md R55). -/
def rdataWord (p : Pixel) : Word := 0#8 ++ p.r ++ p.g ++ p.b

/-- The wire layout, `W(p) = {p.g, p.r, p.b}` (42_transmitter.md R102): the only place where the order changes. -/
def pixelWord (p : Pixel) : PixelWord := p.g ++ p.r ++ p.b

/-- The causes of an error (60_exceptions.md R136). -/
inductive ErrorCause where
  | illegalOpcode
  | badCoord
  | badDigit
  | badIndex
  deriving DecidableEq, Repr, Inhabited

/-- The code of a cause (10_state.md R27, 60_exceptions.md R136). -/
def ErrorCause.code : ErrorCause → BitVec 3
  | .illegalOpcode => 1
  | .badCoord => 2
  | .badDigit => 3
  | .badIndex => 4

/-- `raise Error(code)` (60_exceptions.md R137). This is all the block has of taking an exception: nothing is saved, no mode
changes, no sequence is redirected and the command counts as accepted (R146). There is no return beside it (R147): only
`State.hardReset` clears ERR and ERR_CODE. -/
def State.raiseError (c : ErrorCause) (s : State) : State :=
  { s with err := true, errCode := if s.errCode = 0 then c.code else s.errCode }

/-- `emit Bit(b)` and `emit Latch` (00_scope.md R12, 10_state.md R45). -/
def State.emitLed (e : LedEvent) (s : State) : State := { s with ledLog := s.ledLog ++ [e] }

/-- `emit Notify(b, v)` (00_scope.md R12, 43_debounce.md R129). -/
def State.emitNotify (n : Notify) (s : State) : State := { s with evt := s.evt ++ [n] }

/-- The registers of debounce instance b (43_debounce.md R123). -/
def State.deb (s : State) : Button → DebUnit
  | .b0 => s.deb0
  | .b1 => s.deb1

/-- The registers of debounce instance b replaced. -/
def State.setDeb (b : Button) (d : DebUnit) (s : State) : State :=
  match b with
  | .b0 => { s with deb0 := d }
  | .b1 => { s with deb1 := d }

/-- The level of the line BTN[b] (10_state.md R44). -/
def State.btn (s : State) : Button → Bool
  | .b0 => s.btn0
  | .b1 => s.btn1

/-- The line BTN[b] takes a level from outside. -/
def State.setBtn (b : Button) (level : Bool) (s : State) : State :=
  match b with
  | .b0 => { s with btn0 := level }
  | .b1 => { s with btn1 := level }

/-- Reset at any time (70_reset_and_hazards.md R155, R160): every register of the block takes its reset value and both logs
are emptied; what stands outside the block is not the block's to reset (notes/assumptions/16.md). -/
def State.hardReset (s : State) : State :=
  { State.reset with
    cmdQ := s.cmdQ, btn0 := s.btn0, btn1 := s.btn1, script := s.script, freeCount := s.freeCount }

end Sys2Proof.Machine
end

