-- ==== Sys2Proof/Machine/Operands.lean ====
section
/-! DEFINITION. The operand forms of the commands: grid coordinates and the coordinate mapper (40_mapper_and_buffer.md R80,
R81), digits and glyph cells (41_glyph_render.md R95), pixel indices. -/

namespace Sys2Proof.Machine

/-- The coordinate mapper, `map(x, y)` with S = 5 (40_mapper_and_buffer.md R80): even rows run one way, odd rows the other,
and the whole sequence is reversed. -/
def mapIndex (x y : Fin 5) : Fin 25 :=
  if y.val % 2 = 0 then
    ⟨(Config.gridSide * Config.gridSide - 1) - (y.val * Config.gridSide + x.val), by simp only [Config.gridSide]; omega⟩
  else
    ⟨(Config.gridSide * Config.gridSide - 1) - (y.val * Config.gridSide + (Config.gridSide - 1 - x.val)), by
      simp only [Config.gridSide]; omega⟩

/-- The inverse of the mapper, `unmap(i) = (x, y)` (40_mapper_and_buffer.md R81). -/
def unmapIndex (i : Fin 25) : Fin 5 × Fin 5 :=
  let k := (Config.gridSide * Config.gridSide - 1) - i.val
  let y : Fin 5 := ⟨k / Config.gridSide, by simp only [k, Config.gridSide]; omega⟩
  let r : Fin 5 := ⟨k % Config.gridSide, by simp only [Config.gridSide]; omega⟩
  (if y.val % 2 = 0 then r else ⟨Config.gridSide - 1 - r.val, by simp only [Config.gridSide]; omega⟩, y)

/-- A coordinate operand: a cell of the grid, or nothing when X or Y is 5, 6 or 7 (40_mapper_and_buffer.md R86, R87). -/
def gridCell (x y : BitVec 3) : Option (Fin 5 × Fin 5) :=
  if h : x.toNat < 5 ∧ y.toNat < 5 then some (⟨x.toNat, h.1⟩, ⟨y.toNat, h.2⟩) else none

/-- A digit operand: 0 to 9, or nothing when D is 10 to 15 (41_glyph_render.md R96). -/
def digitOperand (d : BitVec 4) : Option (Fin 10) :=
  if h : d.toNat < 10 then some ⟨d.toNat, h⟩ else none

/-- An index operand: 0 to 24, or nothing when I is 25 to 31 (40_mapper_and_buffer.md R88). -/
def indexOperand (i : BitVec 5) : Option (Fin 25) :=
  if h : i.toNat < 25 then some ⟨i.toNat, h⟩ else none

/-- The bit of a glyph that holds cell (x, y), `5*y + x` (41_glyph_render.md R95). -/
def cellBit (x y : Fin 5) : Nat := 5 * y.val + x.val

/-- Whether cell (x, y) of a bitmap is set, `GLYPH[d][5*y + x] = 1` (41_glyph_render.md R95). -/
def cellLit (bits : BitVec 25) (x y : Fin 5) : Bool := bits.getLsbD (cellBit x y)

/-- The cells of the grid in the order of the renderer's loops: y outside, x inside (41_glyph_render.md R96). -/
def gridCells : List (Fin 5 × Fin 5) :=
  [0, 1, 2, 3, 4].flatMap fun y => [0, 1, 2, 3, 4].map fun x => (x, y)

end Sys2Proof.Machine
end

