-- ==== Sys2Proof/Machine/Flags.lean ====
section
/-! DEFINITION. What is computed from the state: STATUS and its flags (10_state.md R41, R47), CMD_READY (R43), the indicator
pins (R40), the level of the serial line between symbols (R44), and the host's reads (R42). -/

namespace Sys2Proof.Machine

/-- STATUS.BUSY: 1 iff TX_STATE = DRAIN (10_state.md R41). -/
def State.busy (s : State) : Bool := s.txState == .drain

/-- STATUS.SETTLE: 1 iff TX_STATE = SETTLE (10_state.md R41). -/
def State.settling (s : State) : Bool := s.txState == .settle

/-- STATUS (10_state.md R41), from bit 31 down: reserved [31:21], MAP_IDX [20:16], reserved [15:12], INIT_DONE 11, TOG1 10,
TOG0 9, ERR_CODE [8:6], ERR 5, CH_BANK 4, CH_OK 3, FATAL 2, SETTLE 1, BUSY 0. -/
def State.status (s : State) : Word :=
  0#11 ++ s.mapIdx ++ 0#4 ++ BitVec.ofBool s.initDone ++ BitVec.ofBool s.deb1.tog ++ BitVec.ofBool s.deb0.tog ++ s.errCode ++
    BitVec.ofBool s.err ++ BitVec.ofNat 1 s.chBank.val ++ BitVec.ofBool s.chOk ++ BitVec.ofBool s.fatal ++
    BitVec.ofBool s.settling ++ BitVec.ofBool s.busy

/-- The block runs: INIT_DONE = 1 and FATAL = 0, which every agent but INIT and TMR needs (10_state.md R28, R29, 43_debounce.md
R123). -/
def State.running (s : State) : Bool := s.initDone && !s.fatal

/-- CMD_READY for a presented word (10_state.md R43). -/
def State.cmdReady (w : Word) (s : State) : Bool :=
  s.initDone && !s.fatal && s.txState != .drain && !(opField w == 0x5#4 && s.txState == .settle)

/-- IND[b], the indicator pin of button b (10_state.md R40). -/
def State.ind (s : State) (b : Button) : Bool := (s.deb b).tog

/-- The level of LED_DOUT at every time no symbol is being sent: low, whatever the state (10_state.md R44, 42_transmitter.md
R111). A symbol is sent only inside a TXS bit step; its shape is in Machine/Line.lean. -/
def State.ledDoutBetweenSymbols (_ : State) : Bool := false

/-- A read of the host port: a function of the state after the last completed step (10_state.md R42). -/
def State.hostRead (s : State) : HostReg → Word
  | .status => s.status
  | .rdata => s.rdata

end Sys2Proof.Machine
end

