-- ==== Sys2Proof/Machine/Transmitter.lean ====
section
/-! DEFINITION. The protocol transmitter (42_transmitter.md): the meaning of START, and the steps of INIT, TXD, TXS and the
transmitter's part of TICK_US. Each step here is the effect; when it is enabled is beside it. -/

namespace Sys2Proof.Machine

/-- START, accepted (42_transmitter.md R103). -/
def execStart (s : State) : Result := .next { s with txState := .drain, txIdx := 0 }

/-- The channel acquisition, given what the two banks have: bank 0, else one retry on bank 1, else FATAL (42_transmitter.md
R101). -/
def acquireChannel (bank0 bank1 : Bool) (s : State) : State :=
  if bank0 then { s with chOk := true, chBank := 0, initDone := true }
  else if bank1 then { s with chOk := true, chBank := 1, initDone := true }
  else { s with fatal := true, initDone := true }

/-- The INIT step (42_transmitter.md R101). -/
def initStep (s : State) : State := acquireChannel (Config.bankAvail 0) (Config.bankAvail 1) s

/-- When the TXD step is enabled (42_transmitter.md R105); not when the queue is full (R106). -/
def State.txdEnabled (s : State) : Bool :=
  s.running && s.txState == .drain && decide (s.txIdx.val < 25) && decide (s.fifo.length < Config.fifoDepth)

/-- The TXD push step (42_transmitter.md R105). -/
def txdStep (s : State) : State :=
  if h : s.txIdx.val < 25 then
    { s with
      fifo := s.fifo ++ [pixelWord (readPixel s.pb ⟨s.txIdx.val, h⟩)]
      txIdx := (⟨s.txIdx.val, h⟩ : Fin 25).succ }
  else s

/-- When the TXS load step is enabled (42_transmitter.md R107). -/
def State.loadEnabled (s : State) : Bool :=
  s.running && s.txState == .drain && s.shcnt == 0 && !s.fifo.isEmpty

/-- The TXS load step (42_transmitter.md R107). -/
def loadStep (s : State) : State :=
  match s.fifo with
  | [] => s
  | w :: rest => { s with fifo := rest, shreg := w, shcnt := 24 }

/-- When the TXS bit step is enabled (42_transmitter.md R108). -/
def State.bitEnabled (s : State) : Bool :=
  s.running && s.txState == .drain && decide (0 < s.shcnt.val)

/-- The end of a frame: the last bit of the last pixel has been sent (42_transmitter.md R108). -/
def endFrame (s : State) : State :=
  if s.shcnt = 0 ∧ s.txIdx = 25 ∧ s.fifo = [] then { s with txState := .settle, settleCnt := ⟨Config.settleUs, by decide⟩ } else s

/-- The TXS bit step: bit SHREG[SHCNT - 1], then the test for the end of the frame (42_transmitter.md R108). -/
def bitStep (s : State) : State :=
  if h : 0 < s.shcnt.val then
    let k : Fin 24 := ⟨s.shcnt.val - 1, by omega⟩
    endFrame { s.emitLed (.bit (s.shreg.getLsbD k.val)) with shcnt := k.castSucc }
  else s

/-- The TXS step: of its two kinds the one that is enabled (42_transmitter.md R107, R108). -/
def txsStep (s : State) : State := if s.bitEnabled then bitStep s else loadStep s

/-- The transmitter's part of TICK_US (42_transmitter.md R114). With TX_STATE = SETTLE and SETTLE_CNT = 0 the spec gives no
effect (notes/assumptions/6.md). -/
def settleTick (s : State) : Result :=
  if s.txState = .settle then
    if h : 0 < s.settleCnt.val then
      if s.settleCnt = 1 then .next ({ s with settleCnt := 0, txState := .idle }.emitLed .latch)
      else .next { s with settleCnt := ⟨s.settleCnt.val - 1, by omega⟩ }
    else .fault .settleUnderflow
  else .next s

end Sys2Proof.Machine
end

