-- ==== Sys2Proof/Machine/Debounce.lean ====
section
/-! DEFINITION. The time base and the debounced input handlers (43_debounce.md). -/

namespace Sys2Proof.Machine

/-- The time-base part of TICK_US (43_debounce.md R121). -/
def timeBaseTick (s : State) : State :=
  if h : s.usPresc.val + 1 < 1000 then { s with usPresc := ⟨s.usPresc.val + 1, h⟩ }
  else { s with usPresc := 0, nowMs := s.nowMs + 1 }

/-- The whole TICK_US step: the time base, then the settle hold, in one atomic step (43_debounce.md R121, 42_transmitter.md
R114). -/
def tickStep (s : State) : Result := settleTick (timeBaseTick s)

/-- The falling-edge detector: a sample 0 after a sample 1 (43_debounce.md R124, R125). -/
def fallingEdge (prev cur : Bool) : Bool := prev && !cur

/-- Elapsed time, the 32-bit modular difference (43_debounce.md R127). -/
def elapsedMs (now lastTs : BitVec 32) : BitVec 32 := now - lastTs

/-- The window test, inclusive at the boundary (43_debounce.md R126). -/
def windowPassed (now lastTs : BitVec 32) : Bool := decide (Config.windowMs ≤ (elapsedMs now lastTs).toNat)

/-- Whether a sample `cur` at time `now` is an accepted edge (43_debounce.md R124). -/
def DebUnit.accepts (now : BitVec 32) (cur : Bool) (d : DebUnit) : Bool :=
  fallingEdge d.prev cur && windowPassed now d.lastTs

/-- The registers of one instance after a sample (43_debounce.md R124, R128, R130). -/
def DebUnit.sample (now : BitVec 32) (cur : Bool) (d : DebUnit) : DebUnit :=
  if d.accepts now cur then { lastTs := now, tog := !d.tog, prev := cur } else { d with prev := cur }

/-- The DEB_b sample step (43_debounce.md R124): one atomic step that also emits the record of an accepted edge (R129). -/
def debStep (b : Button) (s : State) : State :=
  let d := s.deb b
  let d' := d.sample s.nowMs (s.btn b)
  if d.accepts s.nowMs (s.btn b) then (s.setDeb b d').emitNotify ⟨b, d'.tog⟩ else s.setDeb b d'

end Sys2Proof.Machine
end

