-- ==== Sys2Proof/Machine/Buffer.lean ====
section
/-! DEFINITION. The meanings of NOP, CLEAR, SETCOLOR, SETXY, MAP and RDPIX (40_mapper_and_buffer.md). A meaning is that of an
ACCEPTED command: whether the port accepts it is decided before (10_state.md R43, Machine/Agents.lean). -/

namespace Sys2Proof.Machine

/-- NOP (40_mapper_and_buffer.md R83). -/
def execNop (s : State) : Result := .next s

/-- CLEAR (40_mapper_and_buffer.md R84). -/
def execClear (s : State) : Result := .next (s.withPb blackBuffer)

/-- SETCOLOR (40_mapper_and_buffer.md R85). -/
def execSetcolor (r g b : BitVec 8) (s : State) : Result := .next { s with color := ⟨r, g, b⟩ }

/-- SETXY (40_mapper_and_buffer.md R86). -/
def execSetxy (x y : BitVec 3) (s : State) : Result :=
  match gridCell x y with
  | none => .next (s.raiseError .badCoord)
  | some (cx, cy) => .next (s.withPb (setPixel s.pb (mapIndex cx cy) s.color))

/-- MAP (40_mapper_and_buffer.md R87). -/
def execMap (x y : BitVec 3) (s : State) : Result :=
  match gridCell x y with
  | none => .next (s.raiseError .badCoord)
  | some (cx, cy) => .next { s with mapIdx := BitVec.ofNat 5 (mapIndex cx cy).val }

/-- RDPIX (40_mapper_and_buffer.md R88): by raw index, not through the mapper. -/
def execRdpix (i : BitVec 5) (s : State) : Result :=
  match indexOperand i with
  | none => .next (s.raiseError .badIndex)
  | some k => .next { s with rdata := rdataWord (readPixel s.pb k) }

end Sys2Proof.Machine
end

