-- ==== Sys2Proof/Machine/Glyph.lean ====
section
/-! DEFINITION. The renderer and the meaning of RENDER (41_glyph_render.md R95 to R98). -/

namespace Sys2Proof.Machine

/-- One turn of the renderer's loops: a set cell writes LIT at its mapped index (41_glyph_render.md R96). -/
def drawCell (bits : BitVec 25) (pb : Vector Pixel 25) (cell : Fin 5 × Fin 5) : Vector Pixel 25 :=
  if cellLit bits cell.1 cell.2 then setPixel pb (mapIndex cell.1 cell.2) Config.lit else pb

/-- The buffer a bitmap renders to: cleared to black, then every set cell lit (41_glyph_render.md R96). -/
def drawGlyph (bits : BitVec 25) : Vector Pixel 25 := gridCells.foldl (drawCell bits) blackBuffer

/-- RENDER (41_glyph_render.md R96). -/
def execRender (d : BitVec 4) (s : State) : Result :=
  match digitOperand d with
  | none => .next (s.raiseError .badDigit)
  | some k => .next (s.withPb (drawGlyph (Config.glyph k)))

end Sys2Proof.Machine
end

