-- ==== Sys2Proof/Machine/Reserved.lean ====
section
/-! DEFINITION. The meaning of a reserved opcode (60_exceptions.md R138). -/

namespace Sys2Proof.Machine

/-- A reserved opcode, 0x8 to 0xF: `raise Error(ILLEGAL_OPCODE)` and nothing else (60_exceptions.md R138). -/
def execReserved (_op : BitVec 4) (s : State) : Result := .next (s.raiseError .illegalOpcode)

end Sys2Proof.Machine
end

