-- ==== Sys2Proof/Machine/Dispatch.lean ====
section
/-! DEFINITION. One arm per constructor of Instr: the meaning of an accepted command. -/

namespace Sys2Proof.Machine

def exec (i : Instr) (s : State) : Host.Outcome State Fault Refusal :=
  match i with
  | .nop => Sys2Proof.Machine.execNop s
  | .clear => Sys2Proof.Machine.execClear s
  | .setcolor r g b => Sys2Proof.Machine.execSetcolor r g b s
  | .setxy x y => Sys2Proof.Machine.execSetxy x y s
  | .render d => Sys2Proof.Machine.execRender d s
  | .start => Sys2Proof.Machine.execStart s
  | .map x y => Sys2Proof.Machine.execMap x y s
  | .rdpix k => Sys2Proof.Machine.execRdpix k s
  | .reserved op => Sys2Proof.Machine.execReserved op s

end Sys2Proof.Machine
end

