-- ==== Sys2Proof/Machine/Agents.lean ====
section
/-! DEFINITION. The agents (00_scope.md R8): when each has an enabled step, what its step does, what a stall is, which event
comes next, and how a command word comes to the port. -/

namespace Sys2Proof.Machine

/-- The word on CMD, if the host presents one: what a HOST step fetches (10_state.md R43). -/
def State.cmdWord (s : State) : Option Word := s.cmdQ.head?

/-- Whether the agent has an enabled step in this state, or the input can arrive (00_scope.md R8, R9). Inputs from outside and
host reads always can (10_state.md R42). -/
def enabled : Event → State → Bool
  | .init, s => !s.initDone
  | .txd, s => s.txdEnabled
  | .txs, s => s.bitEnabled || s.loadEnabled
  | .tick, _ => true
  | .deb _, s => s.running
  | .host, s => match s.cmdWord with
    | none => false
    | some w => s.cmdReady w
  | .read _, _ => true
  | .present _, _ => true
  | .button _ _, _ => true
  | .reset, _ => true

/-- The HOST step: the word on CMD leaves the port and its command runs, whole, in this step (20_memory.md R58, R61). -/
def hostStep (s : State) : Result :=
  match s.cmdQ with
  | [] => .next s
  | w :: rest => exec (decode w) { s with cmdQ := rest }

/-- The effect of an enabled step. -/
def fire : Event → State → Result
  | .init, s => .next (initStep s)
  | .txd, s => .next (txdStep s)
  | .txs, s => .next (txsStep s)
  | .tick, s => tickStep s
  | .deb b, s => .next (debStep b s)
  | .host, s => hostStep s
  | .read _, s => .next s
  | .present w, s => .next { s with cmdQ := s.cmdQ ++ [w] }
  | .button b level, s => .next (s.setBtn b level)
  | .reset, s => .next s.hardReset

/-- One event: the enabled step, or a stall, which changes nothing (00_scope.md R9; a word that is not accepted stays presented,
10_state.md R43; notes/assumptions/2.md). -/
def stepEvent (e : Event) (s : State) : Result := if enabled e s then fire e s else .next s

/-- The next event and the state once it is taken: the head of the schedule, or, when the schedule is empty, the next free
choice (notes/assumptions/1.md). -/
def State.nextEvent (s : State) : Event × State :=
  match s.script with
  | e :: rest => (e, { s with script := rest })
  | [] => (Config.freeEvent s.freeCount, { s with freeCount := s.freeCount + 1 })

/-- The state made ready to accept any command, as it would be after a successful INIT with no frame in progress: unchanged if
it is so already (notes/assumptions/17.md). -/
def State.readyForCommands (s : State) : State :=
  if s.initDone && !s.fatal && s.txState == .idle then s
  else
    { s with
      initDone := true, fatal := false, chOk := true, txState := .idle, fifo := [], shcnt := 0
      txIdx := if s.ledLog.isEmpty then 0 else 25 }

/-- The word on the port, ahead of any the host already presents, with HOST to step next. -/
def State.presentNow (w : Word) (s : State) : State :=
  { s with cmdQ := w :: s.cmdQ, script := .host :: s.script }

end Sys2Proof.Machine
end

