-- ==== Sys2Proof/Machine/Step.lean ====
section
/-! DEFINITION. One step of the machine: the next event happens (00_scope.md R8). -/

namespace Sys2Proof.Machine

/-- One step: the event that comes next, enabled or stalled. -/
def step (s : State) : Host.Outcome State Fault Refusal :=
  stepEvent s.nextEvent.1 s.nextEvent.2

/-- The state in which the very next step accepts and runs the command word whose bits are `w` (notes/assumptions/17.md). -/
def State.withFetchWord (s : State) (nbits w : Nat) : State :=
  s.readyForCommands.presentNow (tableWord nbits w)

end Sys2Proof.Machine
end

