-- ==== Sys2Proof/Machine/Assembler.lean ====
section
/-! DEFINITION. The assembler of the host's side (30_encoding.md R76) and the pseudo-instructions (R77). A line of text is a list
of characters; it assembles to the words it stands for, or to nothing where R76 gives an assembly error. The details R76 leaves
open (white space, leading zeros) are in notes/assumptions/18.md. -/

namespace Sys2Proof.Machine

/-- One statement of the assembler: a command, `.word`, or a pseudo-instruction, its operands as written (30_encoding.md R76,
R77). -/
inductive AsmStatement where
  | nop
  | clear
  | setcolor (r g b : Nat)
  | setxy (x y : Nat)
  | render (d : Nat)
  | start
  | map (x y : Nat)
  | rdpix (i : Nat)
  | word (v : Nat)
  | showDigit (d : Nat)
  | plot (x y r g b : Nat)
  | blank
  | lit (x y : Nat)
  deriving DecidableEq, Repr

/-- The expansions of the pseudo-instructions `show`, `plot`, `blank` and `lit` (30_encoding.md R77); any other statement is
itself. -/
def AsmStatement.expand : AsmStatement → List AsmStatement
  | .showDigit d => [.render d, .start]
  | .plot x y r g b => [.setcolor r g b, .setxy x y]
  | .blank => [.clear, .start]
  | .lit x y => [.setcolor 40 0 0, .setxy x y]
  | s => [s]

/-- An operand in an n-bit field: outside its encodable range it is an assembly error (30_encoding.md R76). -/
def asmField (n v : Nat) : Option (BitVec n) := if v < 2 ^ n then some (BitVec.ofNat n v) else none

/-- The command a statement stands for; none for `.word`, for a pseudo-instruction, and for an operand out of range. -/
def AsmStatement.command : AsmStatement → Option Instr
  | .nop => some .nop
  | .clear => some .clear
  | .setcolor r g b => do return .setcolor (← asmField 8 r) (← asmField 8 g) (← asmField 8 b)
  | .setxy x y => do return .setxy (← asmField 3 x) (← asmField 3 y)
  | .render d => do return .render (← asmField 4 d)
  | .start => some .start
  | .map x y => do return .map (← asmField 3 x) (← asmField 3 y)
  | .rdpix i => do return .rdpix (← asmField 5 i)
  | _ => none

/-- The word of one statement that is no pseudo-instruction (30_encoding.md R75, R76). -/
def AsmStatement.oneWord : AsmStatement → Option Word
  | .word v => asmField 32 v
  | s => s.command.map encode

/-- The words a statement assembles to, or nothing on an assembly error (30_encoding.md R76, R77). -/
def AsmStatement.words (s : AsmStatement) : Option (List Word) := s.expand.mapM AsmStatement.oneWord

/-- White space inside a line. -/
def isBlankChar (c : Char) : Bool := c == ' ' || c == '\t' || c == '\r'

/-- A line without its comment: `;` starts one (30_encoding.md R76). -/
def stripComment (line : List Char) : List Char := line.takeWhile (· != ';')

/-- Text without the white space around it. -/
def trimBlank (t : List Char) : List Char := ((t.dropWhile isBlankChar).reverse.dropWhile isBlankChar).reverse

/-- The value of a digit in a base of at most 16. -/
def digitValue (base : Nat) (c : Char) : Option Nat :=
  let n := c.toNat
  let v :=
    if 48 ≤ n ∧ n ≤ 57 then n - 48
    else if 97 ≤ n ∧ n ≤ 102 then n - 87
    else if 65 ≤ n ∧ n ≤ 70 then n - 55
    else base
  if v < base then some v else none

/-- A number from its digits, most significant first. -/
def digitsValue (base : Nat) : List Char → Nat → Option Nat
  | [], acc => some acc
  | c :: rest, acc =>
    match digitValue base c with
    | none => none
    | some d => digitsValue base rest (base * acc + d)

/-- An operand, decimal or `0x` hexadecimal (30_encoding.md R76). -/
def parseNumber (t : List Char) : Option Nat :=
  match t with
  | [] => none
  | '0' :: 'x' :: d :: rest => digitsValue 16 (d :: rest) 0
  | '0' :: 'X' :: d :: rest => digitsValue 16 (d :: rest) 0
  | c :: rest => digitsValue 10 (c :: rest) 0

/-- Text cut at its commas. -/
def splitCommas : List Char → List (List Char)
  | [] => [[]]
  | c :: rest =>
    match splitCommas rest with
    | [] => [[c]]
    | first :: others => if c == ',' then [] :: first :: others else (c :: first) :: others

/-- The operands of a line. -/
def parseOperands (t : List Char) : Option (List Nat) :=
  if (trimBlank t).isEmpty then some [] else (splitCommas t).mapM fun p => parseNumber (trimBlank p)

/-- A letter in lower case: mnemonics are case-insensitive (30_encoding.md R76). -/
def lowerChar (c : Char) : Char := if 65 ≤ c.toNat ∧ c.toNat ≤ 90 then Char.ofNat (c.toNat + 32) else c

/-- The statement of a mnemonic with its operands (30_encoding.md R76, R77). -/
def statementOf (name : List Char) (ops : List Nat) : Option AsmStatement :=
  match name, ops with
  | ['n', 'o', 'p'], [] => some .nop
  | ['c', 'l', 'e', 'a', 'r'], [] => some .clear
  | ['s', 'e', 't', 'c', 'o', 'l', 'o', 'r'], [r, g, b] => some (.setcolor r g b)
  | ['s', 'e', 't', 'x', 'y'], [x, y] => some (.setxy x y)
  | ['r', 'e', 'n', 'd', 'e', 'r'], [d] => some (.render d)
  | ['s', 't', 'a', 'r', 't'], [] => some .start
  | ['m', 'a', 'p'], [x, y] => some (.map x y)
  | ['r', 'd', 'p', 'i', 'x'], [i] => some (.rdpix i)
  | ['.', 'w', 'o', 'r', 'd'], [v] => some (.word v)
  | ['s', 'h', 'o', 'w'], [d] => some (.showDigit d)
  | ['p', 'l', 'o', 't'], [x, y, r, g, b] => some (.plot x y r g b)
  | ['b', 'l', 'a', 'n', 'k'], [] => some .blank
  | ['l', 'i', 't'], [x, y] => some (.lit x y)
  | _, _ => none

/-- A line of assembler text: the words it stands for (none of them for an empty line or a comment), or nothing on an assembly
error (30_encoding.md R76). -/
def assembleLine (line : List Char) : Option (List Word) :=
  let t := trimBlank (stripComment line)
  if t.isEmpty then some []
  else do
    let name := (t.takeWhile fun c => !isBlankChar c).map lowerChar
    let ops ← parseOperands (t.dropWhile fun c => !isBlankChar c)
    (← statementOf name ops).words

/-- A program text, one line after another, as the words the host presents in order (30_encoding.md R76, R72). -/
def assemble (lines : List (List Char)) : Option (List Word) := do return (← lines.mapM assembleLine).flatten

end Sys2Proof.Machine
end

