-- ==== Sys2Proof/Machine/Line.lean ====
section
/-! DEFINITION. What LED_DOUT carries: the order of the bits of a pixel (42_transmitter.md R108, R109), a frame as a sequence
of events (R112) and of bytes (R115), and the shape of one symbol on the line (R110). -/

namespace Sys2Proof.Machine

/-- The bits of a word from bit n - 1 down to bit 0: what the serializer still has to send when SHCNT = n (42_transmitter.md
R108). -/
def bitsBelow (w : PixelWord) : Nat → List Bool
  | 0 => []
  | n + 1 => w.getLsbD n :: bitsBelow w n

/-- The 24 bits of a pixel word in the order sent, bit 23 first (20_memory.md R54). -/
def wireBits (w : PixelWord) : List Bool := bitsBelow w 24

/-- The events of one word. -/
def wordEvents (w : PixelWord) : List LedEvent := (wireBits w).map .bit

/-- The events of a list of pixels, in order. -/
def pixelEvents (ps : List Pixel) : List LedEvent := ps.flatMap fun p => wordEvents (pixelWord p)

/-- The events of the frame of a buffer: 600 bits, then Latch (42_transmitter.md R112). -/
def frameEvents (pb : Vector Pixel 25) : List LedEvent := pixelEvents pb.toList ++ [.latch]

/-- The bytes of the frame of a buffer: one triple green, red, blue per pixel (42_transmitter.md R115). -/
def frameBytes (pb : Vector Pixel 25) : List Byte := pb.toList.flatMap fun p => [p.g, p.r, p.b]

/-- The bits of a byte in the order sent, most significant first (20_memory.md R54). -/
def byteBits (v : Byte) : List Bool :=
  [v.getLsbD 7, v.getLsbD 6, v.getLsbD 5, v.getLsbD 4, v.getLsbD 3, v.getLsbD 2, v.getLsbD 1, v.getLsbD 0]

/-- A stretch of LED_DOUT at one level. -/
structure LineSegment where
  high : Bool
  ns : Nat
  deriving DecidableEq, Repr

/-- The high time of a symbol: T1H for a 1, T0H for a 0 (42_transmitter.md R110). -/
def highNs (b : Bool) : Nat := if b then Config.t1hNs.val else Config.t0hNs.val

/-- One symbol: high, then low for the rest of T_BIT (42_transmitter.md R110). -/
def symbol (b : Bool) : List LineSegment := [⟨true, highNs b⟩, ⟨false, Config.tBitNs - highNs b⟩]

/-- What an event of LEDLOG puts on the line: a symbol; for Latch nothing, the low gap before it has no length in the model
(notes/assumptions/14.md). -/
def LedEvent.segments : LedEvent → List LineSegment
  | .bit b => symbol b
  | .latch => []

/-- The symbols that LED_DOUT has carried, back to back as 42_transmitter.md R113 obliges an implementation to send those of
one frame; at every other time the line is low (R111). -/
def lineOf (log : List LedEvent) : List LineSegment := log.flatMap LedEvent.segments

end Sys2Proof.Machine
end

