-- ==== Sys2Proof/Safety.lean ====
section
/-! DEFINITION. The terms claims are stated in: runs over a list of events, the invariant of the block, what a frame still has
to send, and what each error's cause is. Nothing here is part of the machine. -/

namespace Sys2Proof.Machine

/-- The events happen in order, each enabled or stalled, until the machine stops (00_scope.md R8, 20_memory.md R61). -/
def runEvents : List Event → State → Result
  | [], s => .next s
  | e :: es, s =>
    match stepEvent e s with
    | .next t => runEvents es t
    | .fault f => .fault f
    | .refused r => .refused r

/-- An endless run: event `ev n` takes state n to state n + 1, whatever stands in the schedule, which is not the block's
(00_scope.md R8). Both an endless list of events and an endless run of `step` are such runs. -/
def EndlessRun (ev : Nat → Event) (st : Nat → State) : Prop :=
  ∀ n, ∃ script freeCount, stepEvent (ev n) { st n with script := script, freeCount := freeCount } = .next (st (n + 1))

/-- Weak fairness of an agent in an endless run: if from some state on its step is enabled for ever, it steps after that
(00_scope.md R10). -/
def WeaklyFair (e : Event) (ev : Nat → Event) (st : Nat → State) : Prop :=
  ∀ n, (∀ m ≥ n, enabled e (st m) = true) → ∃ m ≥ n, ev m = e

/-- The runs the spec assumes: weak fairness of TMR, TXD and TXS, and nothing of HOST or of the button inputs (00_scope.md
R10). -/
structure FairRun (ev : Nat → Event) (st : Nat → State) : Prop where
  run : EndlessRun ev st
  tmr : WeaklyFair .tick ev st
  txd : WeaklyFair .txd ev st
  txs : WeaklyFair .txs ev st

/-- The words of the pixels of a buffer, in index order. -/
def frameWords (pb : Vector Pixel 25) : List PixelWord := pb.toList.map pixelWord

/-- Nothing has happened since reset but the passing of time and, perhaps, INIT: every register except the time base and the
four that INIT writes has its reset value (10_state.md R29, 60_exceptions.md R140, 70_reset_and_hazards.md R156). -/
def Dormant (s : State) : Prop :=
  s = { State.reset with
    initDone := s.initDone, fatal := s.fatal, chOk := s.chOk, chBank := s.chBank
    usPresc := s.usPresc, nowMs := s.nowMs
    cmdQ := s.cmdQ, btn0 := s.btn0, btn1 := s.btn1, script := s.script, freeCount := s.freeCount }

/-- The values recorded for button b, the oldest first. -/
def notifiedValues (b : Button) (evt : List Notify) : List Bool := (evt.filter fun n => n.button == b).map (·.value)

/-- true, false, true, …: n values. -/
def alternating (n : Nat) : List Bool := (List.range n).map fun k => k % 2 == 0

/-- What holds of every state a run reaches. -/
structure BlockInv (s : State) : Prop where
  /-- MAP_IDX is always in 0..24 (10_state.md R24). -/
  mapIdx_lt : s.mapIdx.toNat < 25
  /-- RDATA[31:24] = 0 (10_state.md R25). -/
  rdata_lt : s.rdata.toNat < 2 ^ 24
  /-- ERR = 0 if and only if ERR_CODE = 0 (10_state.md R27). -/
  err_iff : s.err = false ↔ s.errCode = 0
  /-- Codes 5, 6 and 7 are never written (10_state.md R27). -/
  errCode_le : s.errCode.toNat ≤ 4
  /-- The queue holds at most FIFO_DEPTH entries (10_state.md R33). -/
  fifo_le : s.fifo.length ≤ Config.fifoDepth
  /-- Outside a frame the queue and the serializer are empty (42_transmitter.md R104). -/
  quiet : s.txState ≠ .drain → s.fifo = [] ∧ s.shcnt = 0
  /-- TX_IDX is 0 before the first frame since reset and 25 after any frame (42_transmitter.md R104). -/
  idle_idx : s.txState = .idle → (s.txIdx = 0 ∧ s.ledLog = []) ∨ (s.txIdx = 25 ∧ s.ledLog ≠ [])
  /-- In the hold the frame is complete and a tick is still to come (10_state.md R35, 42_transmitter.md R108, R114). -/
  settle_cnt : s.txState = .settle → 0 < s.settleCnt.val ∧ s.txIdx = 25 ∧ s.ledLog ≠ []
  /-- In a frame something is still to be pushed or sent (10_state.md R31). -/
  drain_work : s.txState = .drain → 0 < s.shcnt.val ∨ s.fifo ≠ [] ∨ s.txIdx.val < 25
  /-- In a frame the queue holds the words of the pixels last pushed, in index order (42_transmitter.md R105). -/
  drain_queue : s.txState = .drain → ∃ k ≤ s.txIdx.val, s.fifo = ((frameWords s.pb).take s.txIdx.val).drop k ∧
    (0 < s.shcnt.val → 0 < k ∧ (frameWords s.pb)[k - 1]? = some s.shreg)
  /-- CH_OK is set exactly when INIT found a channel (10_state.md R30, 42_transmitter.md R101). -/
  chOk_iff : s.chOk = (s.initDone && !s.fatal)
  /-- FATAL comes from INIT (10_state.md R29, 60_exceptions.md R141). -/
  fatal_init : s.fatal = true → s.initDone = true
  /-- CH_BANK is 0 while CH_OK = 0 (10_state.md R30). -/
  bank_zero : s.chOk = false → s.chBank = 0
  /-- Without a channel nothing happens but time (10_state.md R29, 60_exceptions.md R140, 70_reset_and_hazards.md R156). -/
  dormant : s.running = false → Dormant s
  /-- The records of a button alternate, from true, and TOG is the last of them (43_debounce.md R128, R129, R134). -/
  toggles : ∀ b, notifiedValues b s.evt = alternating (notifiedValues b s.evt).length ∧
    (s.deb b).tog = ((notifiedValues b s.evt).length % 2 == 1)

/-- What the frame or the hold in progress will still append to LEDLOG (42_transmitter.md R112): the bits left in SHREG, the
words in the queue, the pixels not yet pushed, then Latch. -/
def pendingEvents (s : State) : List LedEvent :=
  match s.txState with
  | .idle => []
  | .settle => [.latch]
  | .drain =>
    (bitsBelow s.shreg s.shcnt.val).map .bit ++ s.fifo.flatMap wordEvents ++ pixelEvents (s.pb.toList.drop s.txIdx.val) ++
      [.latch]

/-- How many enabled steps of TXD, TXS and (in the hold) TMR the frame in progress still needs. -/
def workLeft (s : State) : Nat :=
  match s.txState with
  | .idle => 0
  | .settle => s.settleCnt.val
  | .drain => 26 * (25 - s.txIdx.val) + 25 * s.fifo.length + s.shcnt.val + 100

/-- A run stays inside the frame and its hold: TX_STATE is not IDLE before any event of the run but the first is taken, and a
reset is none of them. -/
def InFrame : List Event → State → Prop
  | [], _ => True
  | e :: es, s => s.txState ≠ .idle ∧ e ≠ .reset ∧ ∀ t, stepEvent e s = .next t → InFrame es t

/-- How many microseconds pass in a run. -/
def tickCount (es : List Event) : Nat := es.count .tick

/-- The error a command raises, by the table of 60_exceptions.md R136. -/
def errorCause : Instr → Option ErrorCause
  | .nop => none
  | .clear => none
  | .setcolor _ _ _ => none
  | .setxy x y => if 5 ≤ x.toNat ∨ 5 ≤ y.toNat then some .badCoord else none
  | .render d => if 10 ≤ d.toNat then some .badDigit else none
  | .start => none
  | .map x y => if 5 ≤ x.toNat ∨ 5 ≤ y.toNat then some .badCoord else none
  | .rdpix i => if 25 ≤ i.toNat then some .badIndex else none
  | .reserved _ => some .illegalOpcode

/-- A button event was accepted in the step from s to t: a record of it was appended (43_debounce.md R129). -/
def AcceptedEdge (b : Button) (s t : State) : Prop := ∃ v, t.evt = s.evt ++ [⟨b, v⟩]

end Sys2Proof.Machine
end

