-- ==== Sys2Proof/Certificates/Slice0/Obligations.lean ====
section
/-! DEFINITION. The statements for the provers: what the numbered rules of spec/ say, about the model. OBLIGATIONS.json lists
them with the rules they formalise. `w.toNat / 2 ^ 28` is OP = cmd[31:28]. -/

open Sys2Proof Sys2Proof.Machine

/-! ### Encoding -/

/-- 30_encoding.md R75: the encoder is the rule's formula, and decoding an encoded command gives it back. -/
def Obligations.DecodeInvertsEncode : Prop :=
  encode .nop = 0x00000000 ∧ encode .clear = 0x10000000 ∧ encode .start = 0x50000000 ∧
  (∀ r g b : BitVec 8, encode (.setcolor r g b) =
    0x20000000 ||| r.setWidth 32 <<< 16 ||| g.setWidth 32 <<< 8 ||| b.setWidth 32) ∧
  (∀ x y : BitVec 3, encode (.setxy x y) = 0x30000000 ||| y.setWidth 32 <<< 4 ||| x.setWidth 32) ∧
  (∀ d : BitVec 4, encode (.render d) = 0x40000000 ||| d.setWidth 32) ∧
  (∀ x y : BitVec 3, encode (.map x y) = 0x60000000 ||| y.setWidth 32 <<< 4 ||| x.setWidth 32) ∧
  (∀ i : BitVec 5, encode (.rdpix i) = 0x70000000 ||| i.setWidth 32) ∧
  ∀ i : Instr, i.wellFormed = true → decode (encode i) = i

/-- 30_encoding.md R74: the decoder, field by field, on every word. -/
def Obligations.DecodeFollowsOpcode : Prop :=
  ∀ w : Word,
    (w.toNat / 2 ^ 28 = 0 → decode w = .nop) ∧
    (w.toNat / 2 ^ 28 = 1 → decode w = .clear) ∧
    (w.toNat / 2 ^ 28 = 2 → decode w =
      .setcolor (BitVec.ofNat 8 (w.toNat / 2 ^ 16)) (BitVec.ofNat 8 (w.toNat / 2 ^ 8)) (BitVec.ofNat 8 w.toNat)) ∧
    (w.toNat / 2 ^ 28 = 3 → decode w = .setxy (BitVec.ofNat 3 w.toNat) (BitVec.ofNat 3 (w.toNat / 2 ^ 4))) ∧
    (w.toNat / 2 ^ 28 = 4 → decode w = .render (BitVec.ofNat 4 w.toNat)) ∧
    (w.toNat / 2 ^ 28 = 5 → decode w = .start) ∧
    (w.toNat / 2 ^ 28 = 6 → decode w = .map (BitVec.ofNat 3 w.toNat) (BitVec.ofNat 3 (w.toNat / 2 ^ 4))) ∧
    (w.toNat / 2 ^ 28 = 7 → decode w = .rdpix (BitVec.ofNat 5 w.toNat)) ∧
    (8 ≤ w.toNat / 2 ^ 28 → decode w = .reserved (BitVec.ofNat 4 (w.toNat / 2 ^ 28))) ∧
    (decode w).wellFormed = true

/-- 30_encoding.md R69: a word and the same word with its reserved bits cleared decode to the same command, are accepted in the
same states and do the same; the encoder writes the reserved bits 0. -/
def Obligations.ReservedBitsIgnored : Prop :=
  (∀ w : Word, decode (w &&& (decode w).fieldMask) = decode w) ∧
  (∀ (w : Word) (s : State), s.cmdReady (w &&& (decode w).fieldMask) = s.cmdReady w) ∧
  (∀ (w : Word) (rest : List Word) (s : State), s.cmdReady w = true →
    stepEvent .host { s with cmdQ := (w &&& (decode w).fieldMask) :: rest } = stepEvent .host { s with cmdQ := w :: rest }) ∧
  ∀ i : Instr, i.wellFormed = true → encode i &&& i.fieldMask = encode i

/-- 30_encoding.md R68: every word selects exactly one row of the opcode map, and decodes to that row's command. -/
def Obligations.WordSelectsOneRow : Prop :=
  ∀ w : Word, ∃ row ∈ opcodeMap, w &&& row.mask = row.value ∧ row.mnemonic = (decode w).mnemonic ∧
    ∀ other ∈ opcodeMap, w &&& other.mask = other.value → other = row

/-- 30_encoding.md R73: the example words. -/
def Obligations.ExampleWordsDecode : Prop :=
  decode 0x00000000 = .nop ∧ decode 0x10000000 = .clear ∧ decode 0x20280000 = .setcolor 40 0 0 ∧
  decode 0x20123456 = .setcolor 0x12 0x34 0x56 ∧ decode 0x30000032 = .setxy 2 3 ∧ decode 0x30000044 = .setxy 4 4 ∧
  decode 0x40000003 = .render 3 ∧ decode 0x50000000 = .start ∧ decode 0x60000000 = .map 0 0 ∧
  decode 0x70000018 = .rdpix 24 ∧ decode 0x3FFFFF8C = .setxy 4 0 ∧ decode 0x80000000 = .reserved 8

/-- 30_encoding.md R77: the pseudo-instructions assemble to the words of their expansions. Beside it, of R76: `.word` gives any
word, and an operand outside its encodable range is an assembly error, in a command and in a pseudo-instruction. -/
def Obligations.PseudoInstructionsExpand : Prop :=
  (∀ d < 16, (AsmStatement.showDigit d).words = some [encode (.render (BitVec.ofNat 4 d)), encode .start]) ∧
  (∀ x < 8, ∀ y < 8, ∀ r < 256, ∀ g < 256, ∀ b < 256, (AsmStatement.plot x y r g b).words =
    some [encode (.setcolor (BitVec.ofNat 8 r) (BitVec.ofNat 8 g) (BitVec.ofNat 8 b)),
      encode (.setxy (BitVec.ofNat 3 x) (BitVec.ofNat 3 y))]) ∧
  AsmStatement.blank.words = some [encode .clear, encode .start] ∧
  (∀ x < 8, ∀ y < 8, (AsmStatement.lit x y).words =
    some [encode (.setcolor 40 0 0), encode (.setxy (BitVec.ofNat 3 x) (BitVec.ofNat 3 y))]) ∧
  (∀ v, (AsmStatement.word v).words = if v < 2 ^ 32 then some [BitVec.ofNat 32 v] else none) ∧
  (∀ x y, 8 ≤ x ∨ 8 ≤ y → (AsmStatement.setxy x y).words = none ∧ (AsmStatement.map x y).words = none) ∧
  (∀ d ≥ 16, (AsmStatement.render d).words = none) ∧ (∀ i ≥ 32, (AsmStatement.rdpix i).words = none) ∧
  (∀ r g b, 256 ≤ r ∨ 256 ≤ g ∨ 256 ≤ b → (AsmStatement.setcolor r g b).words = none) ∧
  (∀ d ≥ 16, (AsmStatement.showDigit d).words = none) ∧
  (∀ x y r g b, 8 ≤ x ∨ 8 ≤ y ∨ 256 ≤ r ∨ 256 ≤ g ∨ 256 ≤ b → (AsmStatement.plot x y r g b).words = none) ∧
  ∀ x y, 8 ≤ x ∨ 8 ≤ y → (AsmStatement.lit x y).words = none

/-! ### Steps -/

/-- 00_scope.md R8, 10_state.md R43: a step of HOST with a word on the port that is ready is the decoded command run on the
state in which the event and the word are taken; so is the step the host asks for with `withFetchWord`. Any other event of the
schedule, and the free choice when the schedule is empty, is that event's step (schedule and `withFetchWord`:
notes/assumptions/1.md, 17.md). -/
def Obligations.StepRunsDecodedCommand : Prop :=
  (∀ (s : State) (es : List Event) (w : Word) (rest : List Word) (i : Instr),
    s.script = .host :: es → s.cmdQ = w :: rest → decode w = i → s.cmdReady w = true →
      step s = exec i { s with script := es, cmdQ := rest }) ∧
  (∀ (s : State) (w : Word) (rest : List Word) (i : Instr), s.cmdQ = w :: rest → decode w = i → s.cmdReady w = true →
    stepEvent .host s = exec i { s with cmdQ := rest }) ∧
  (∀ (s : State) (nbits w : Nat),
    step (s.withFetchWord nbits w) = exec (decode (tableWord nbits w)) s.readyForCommands) ∧
  (∀ (s : State) (e : Event) (es : List Event), s.script = e :: es → step s = stepEvent e { s with script := es }) ∧
  ∀ s : State, s.script = [] →
    step s = stepEvent (Config.freeEvent s.freeCount) { s with freeCount := s.freeCount + 1 }

/-- 10_state.md R43: CMD_READY, that HOST has an enabled step exactly when the word it presents is ready, and that a word that
is not ready stays presented. -/
def Obligations.HostHeldUntilReady : Prop :=
  (∀ (w : Word) (s : State), s.cmdReady w = true ↔
    s.initDone = true ∧ s.fatal = false ∧ s.txState ≠ .drain ∧ ¬(w.toNat / 2 ^ 28 = 5 ∧ s.txState = .settle)) ∧
  (∀ (w : Word) (rest : List Word) (s : State), s.cmdQ = w :: rest → (enabled .host s = true ↔ s.cmdReady w = true)) ∧
  ∀ s t : State, enabled .host s = false → stepEvent .host s = .next t → t.cmdQ = s.cmdQ

/-- 00_scope.md R9, in the model's terms: an agent that stalls changes nothing (the model's form of a stall,
notes/assumptions/2.md), and the one step that stops is a tick in a hold with nothing left to count, where the spec gives no
effect (notes/assumptions/6.md). -/
def Obligations.StallsAndTheOneFault : Prop :=
  (∀ (e : Event) (s : State), enabled e s = false → stepEvent e s = .next s) ∧
  (∀ (e : Event) (s : State), (∃ t, stepEvent e s = .next t) ∨
    (e = .tick ∧ s.txState = .settle ∧ s.settleCnt.val = 0 ∧ stepEvent e s = .fault .settleUnderflow)) ∧
  ∀ s : State, s.txState = .settle → s.settleCnt.val = 0 → stepEvent .tick s = .fault .settleUnderflow

/-- The model's form of 20_memory.md R61 (a): the words of the host are taken only from the head of its stream, one per step, and
new ones only join at the end. That the presented words are a list which HOST alone shortens and `present` alone extends is the
model's choice (notes/assumptions/3.md), and so is that a reset leaves them (notes/assumptions/16.md). -/
def Obligations.CommandsTakenInOrder : Prop :=
  ∀ (e : Event) (s t : State), stepEvent e s = .next t →
    t.cmdQ = s.cmdQ ∨ (e = .host ∧ ∃ w, s.cmdQ = w :: t.cmdQ ∧ s.cmdReady w = true) ∨ ∃ w, e = .present w ∧ t.cmdQ = s.cmdQ ++ [w]

/-- 20_memory.md R61: the machine's run of a schedule is the run of its events in order. The events neither read nor change the
schedule that follows (the schedule is the model's own, notes/assumptions/1.md). -/
def Obligations.ScheduleRunsInOrder : Prop :=
  ∀ (es rest : List Event) (s : State), s.script = es ++ rest →
    Host.Core.run core es.length s = runEvents es { s with script := rest }

/-! ### Commands: results, completion and frames -/

/-- 40_mapper_and_buffer.md R83. -/
def Obligations.NopChangesNothing : Prop :=
  (∀ w : Word, w.toNat / 2 ^ 28 = 0 → decode w = .nop ∧ ∀ s : State, s.txState = .drain → s.cmdReady w = false) ∧
  ∀ s : State, exec .nop s = .next s

/-- 40_mapper_and_buffer.md R84. -/
def Obligations.ClearBlackensBuffer : Prop :=
  (∀ w : Word, w.toNat / 2 ^ 28 = 1 → decode w = .clear) ∧
  ∀ s : State, ∃ t, exec .clear s = .next t ∧ (∀ i : Fin 25, t.pb[i] = ⟨0, 0, 0⟩) ∧ t = { s with pb := t.pb } ∧
    ∀ i : BitVec 5, i.toNat < 25 → exec (.rdpix i) t = .next { t with rdata := 0 }

/-- 40_mapper_and_buffer.md R85: every value is legal for every channel. -/
def Obligations.SetcolorLoadsColor : Prop :=
  (∀ w : Word, w.toNat / 2 ^ 28 = 2 → decode w =
    .setcolor (BitVec.ofNat 8 (w.toNat / 2 ^ 16)) (BitVec.ofNat 8 (w.toNat / 2 ^ 8)) (BitVec.ofNat 8 w.toNat)) ∧
  ∀ (r g b : BitVec 8) (s : State), exec (.setcolor r g b) s = .next { s with color := ⟨r, g, b⟩ }

/-- 40_mapper_and_buffer.md R86: on the grid, the mapped pixel takes COLOR and every other pixel stays; off it, the error and
nothing else. -/
def Obligations.SetxyWritesMappedPixel : Prop :=
  (∀ w : Word, w.toNat / 2 ^ 28 = 3 → decode w = .setxy (BitVec.ofNat 3 w.toNat) (BitVec.ofNat 3 (w.toNat / 2 ^ 4))) ∧
  (∀ (x y : BitVec 3) (hx : x.toNat < 5) (hy : y.toNat < 5) (s : State), ∃ t, exec (.setxy x y) s = .next t ∧
    t.pb[mapIndex ⟨x.toNat, hx⟩ ⟨y.toNat, hy⟩] = s.color ∧
    (∀ i : Fin 25, i ≠ mapIndex ⟨x.toNat, hx⟩ ⟨y.toNat, hy⟩ → t.pb[i] = s.pb[i]) ∧ t = { s with pb := t.pb }) ∧
  ∀ (x y : BitVec 3) (s : State), 5 ≤ x.toNat ∨ 5 ≤ y.toNat →
    exec (.setxy x y) s = .next { s with err := true, errCode := if s.errCode = 0 then 2 else s.errCode }

/-- 40_mapper_and_buffer.md R87. -/
def Obligations.MapLoadsIndex : Prop :=
  (∀ w : Word, w.toNat / 2 ^ 28 = 6 → decode w = .map (BitVec.ofNat 3 w.toNat) (BitVec.ofNat 3 (w.toNat / 2 ^ 4))) ∧
  (∀ (x y : BitVec 3) (hx : x.toNat < 5) (hy : y.toNat < 5) (s : State), ∃ t, exec (.map x y) s = .next t ∧
    t.mapIdx.toNat = (mapIndex ⟨x.toNat, hx⟩ ⟨y.toNat, hy⟩).val ∧ t.status.extractLsb' 16 5 = t.mapIdx ∧
    t = { s with mapIdx := t.mapIdx }) ∧
  ∀ (x y : BitVec 3) (s : State), 5 ≤ x.toNat ∨ 5 ≤ y.toNat →
    exec (.map x y) s = .next { s with err := true, errCode := if s.errCode = 0 then 2 else s.errCode }

/-- 40_mapper_and_buffer.md R88, 10_state.md R25: RDATA takes the pixel of the raw index, in logical order. -/
def Obligations.RdpixLoadsPixel : Prop :=
  (∀ w : Word, w.toNat / 2 ^ 28 = 7 → decode w = .rdpix (BitVec.ofNat 5 w.toNat)) ∧
  (∀ (i : BitVec 5) (h : i.toNat < 25) (s : State), ∃ t, exec (.rdpix i) s = .next t ∧
    t.rdata.toNat = s.pb[i.toNat].r.toNat * 2 ^ 16 + s.pb[i.toNat].g.toNat * 2 ^ 8 + s.pb[i.toNat].b.toNat ∧
    t = { s with rdata := t.rdata }) ∧
  ∀ (i : BitVec 5) (s : State), 25 ≤ i.toNat →
    exec (.rdpix i) s = .next { s with err := true, errCode := if s.errCode = 0 then 4 else s.errCode }

/-- 41_glyph_render.md R96: a digit renders its glyph, whatever the buffer and COLOR held; any other value is the error and
nothing else. -/
def Obligations.RenderDrawsGlyph : Prop :=
  (∀ w : Word, w.toNat / 2 ^ 28 = 4 → decode w = .render (BitVec.ofNat 4 w.toNat)) ∧
  (∀ (d : BitVec 4) (h : d.toNat < 10) (s : State), ∃ t, exec (.render d) s = .next t ∧
    (∀ x y : Fin 5, t.pb[mapIndex x y] =
      if (Config.glyph ⟨d.toNat, h⟩).getLsbD (5 * y.val + x.val) then ⟨40, 0, 0⟩ else ⟨0, 0, 0⟩) ∧
    t = { s with pb := t.pb }) ∧
  ∀ (d : BitVec 4) (s : State), 10 ≤ d.toNat →
    exec (.render d) s = .next { s with err := true, errCode := if s.errCode = 0 then 3 else s.errCode }

/-- 41_glyph_render.md R97: the lit set, index by index through the inverse of the mapper, and its size. -/
def Obligations.RenderedLitSet : Prop :=
  ∀ (d : BitVec 4) (h : d.toNat < 10) (s t : State), exec (.render d) s = .next t →
    (∀ i : Fin 25, t.pb[i] =
      if (Config.glyph ⟨d.toNat, h⟩).getLsbD (5 * (unmapIndex i).2.val + (unmapIndex i).1.val) then ⟨40, 0, 0⟩
      else ⟨0, 0, 0⟩) ∧
    (List.finRange 25).countP (fun i => t.pb[i] == ⟨40, 0, 0⟩) =
      (List.range 25).countP (fun k => (Config.glyph ⟨d.toNat, h⟩).getLsbD k)

/-- 42_transmitter.md R103: what an accepted START does, when it is accepted, and that it is held otherwise. -/
def Obligations.StartBeginsFrame : Prop :=
  (∀ w : Word, w.toNat / 2 ^ 28 = 5 → decode w = .start) ∧
  (∀ (w : Word) (s : State), w.toNat / 2 ^ 28 = 5 →
    (s.cmdReady w = true ↔ s.initDone = true ∧ s.fatal = false ∧ s.txState = .idle)) ∧
  (∀ (w : Word) (rest : List Word) (s t : State), w.toNat / 2 ^ 28 = 5 → s.cmdQ = w :: rest → s.txState ≠ .idle →
    enabled .host s = false ∧ (stepEvent .host s = .next t → t.cmdQ = w :: rest)) ∧
  ∀ s : State, exec .start s = .next { s with txState := .drain, txIdx := 0 } ∧
    ({ s with txState := .drain, txIdx := 0 } : State).status.getLsbD 0 = true

/-- 60_exceptions.md R138: a reserved opcode is accepted like any word but START and raises ILLEGAL_OPCODE, nothing else. -/
def Obligations.ReservedRaisesIllegalOpcode : Prop :=
  (∀ w : Word, w.getLsbD 31 = true → decode w = .reserved (BitVec.ofNat 4 (w.toNat / 2 ^ 28)) ∧
    ∀ s : State, s.cmdReady w = true ↔ s.initDone = true ∧ s.fatal = false ∧ s.txState ≠ .drain) ∧
  (∀ (op : BitVec 4) (s : State), exec (.reserved op) s =
    .next { s with err := true, errCode := if s.errCode = 0 then 1 else s.errCode }) ∧
  ∃ t, exec (decode 0x80000000) (acquireChannel true true State.reset) = .next t ∧ t.status = 0x00000868

/-- 60_exceptions.md R137: what raising an error writes, and that a command that raises one is accepted, skips its other writes
and completes its step, the next word being on the port. -/
def Obligations.RaiseErrorKeepsFirstCode : Prop :=
  (∀ (c : ErrorCause) (s : State), (s.raiseError c).err = true ∧
    (s.errCode = 0 → (s.raiseError c).errCode = c.code) ∧ (s.errCode ≠ 0 → (s.raiseError c).errCode = s.errCode) ∧
    s.raiseError c = { s with err := (s.raiseError c).err, errCode := (s.raiseError c).errCode }) ∧
  ∀ (w : Word) (rest : List Word) (s : State) (c : ErrorCause),
    s.cmdQ = w :: rest → s.cmdReady w = true → errorCause (decode w) = some c →
      stepEvent .host s = .next (({ s with cmdQ := rest } : State).raiseError c)

/-- 60_exceptions.md R136: a command records exactly the error the table gives it, under its code; FATAL comes from INIT alone
and only without a channel; no other step records anything. -/
def Obligations.OnlyListedErrorsRecorded : Prop :=
  (ErrorCause.illegalOpcode.code = 1 ∧ ErrorCause.badCoord.code = 2 ∧ ErrorCause.badDigit.code = 3 ∧
    ErrorCause.badIndex.code = 4) ∧
  (∀ (i : Instr) (s : State) (c : ErrorCause), errorCause i = some c →
    exec i s = .next { s with err := true, errCode := if s.errCode = 0 then c.code else s.errCode }) ∧
  (∀ (i : Instr) (s : State), errorCause i = none → ∃ t, exec i s = .next t ∧ t.err = s.err ∧ t.errCode = s.errCode) ∧
  ∀ (e : Event) (s t : State), stepEvent e s = .next t → e ≠ .reset →
    (e ≠ .host → t.err = s.err ∧ t.errCode = s.errCode) ∧
    (t.fatal = s.fatal ∨ (e = .init ∧ t.fatal = true ∧ Config.bankAvail 0 = false ∧ Config.bankAvail 1 = false))

/-- 10_state.md R26, R27: ERR is never cleared except by reset, and later errors do not change ERR_CODE. -/
def Obligations.ErrorsStickUntilReset : Prop :=
  ∀ (e : Event) (s t : State), stepEvent e s = .next t → e ≠ .reset →
    (s.err = true → t.err = true) ∧ (s.errCode ≠ 0 → t.errCode = s.errCode) ∧ (t.errCode ≠ s.errCode → t.err = true)

/-- 20_memory.md R59: running a command a second time changes nothing more, for every command but START. -/
def Obligations.CommandsAreIdempotent : Prop :=
  ∀ (i : Instr) (s : State), i ≠ .start → ∃ t, exec i s = .next t ∧ exec i t = .next t

/-- 40_mapper_and_buffer.md R90: every command but START leaves the transmitter, the debounce state, the time base, the channel
and the logs alone, and nothing but an accepted START begins a frame. -/
def Obligations.OnlyStartBeginsFrame : Prop :=
  (∀ (i : Instr) (s : State), i ≠ .start → ∃ t, exec i s = .next t ∧
    t = { s with pb := t.pb, color := t.color, mapIdx := t.mapIdx, rdata := t.rdata, err := t.err, errCode := t.errCode }) ∧
  ∀ (e : Event) (s t : State), stepEvent e s = .next t → t.txState = .drain → s.txState = .drain ∨
    (e = .host ∧ s.txState = .idle ∧ ∃ w, s.cmdWord = some w ∧ s.cmdReady w = true ∧ decode w = .start)

/-- 40_mapper_and_buffer.md R80, R81, R82: the formula, the table, the inverse; 00_scope.md R14: the bijection. -/
def Obligations.MapperIsBijection : Prop :=
  (∀ x y : Fin 5, (mapIndex x y).val =
    if y.val % 2 = 0 then 24 - 5 * y.val - x.val else 20 - 5 * y.val + x.val) ∧
  (∀ x y : Fin 5, unmapIndex (mapIndex x y) = (x, y)) ∧
  (∀ i : Fin 25, mapIndex (unmapIndex i).1 (unmapIndex i).2 = i) ∧
  [0, 1, 2, 3, 4].map (fun y => [0, 1, 2, 3, 4].map fun x => (mapIndex x y).val) =
    [[24, 23, 22, 21, 20], [15, 16, 17, 18, 19], [14, 13, 12, 11, 10], [5, 6, 7, 8, 9], [4, 3, 2, 1, 0]]

/-! ### STATUS, outputs, reset -/

/-- 10_state.md R41: every field of STATUS. -/
def Obligations.StatusLayout : Prop :=
  (∀ s : State,
    s.status.getLsbD 0 = (s.txState == .drain) ∧ s.status.getLsbD 1 = (s.txState == .settle) ∧
    s.status.getLsbD 2 = s.fatal ∧ s.status.getLsbD 3 = s.chOk ∧ s.status.getLsbD 4 = (s.chBank == 1) ∧
    s.status.getLsbD 5 = s.err ∧ s.status.extractLsb' 6 3 = s.errCode ∧ s.status.getLsbD 9 = s.deb0.tog ∧
    s.status.getLsbD 10 = s.deb1.tog ∧ s.status.getLsbD 11 = s.initDone ∧ s.status.extractLsb' 12 4 = 0 ∧
    s.status.extractLsb' 16 5 = s.mapIdx ∧ s.status.extractLsb' 21 11 = 0) ∧
  State.reset.status = 0x00000000

/-- 10_state.md R42, R40, 20_memory.md R59: a read happens in any state, gives the register, and changes nothing; the
indicator pins are the toggles. -/
def Obligations.ReadsHaveNoEffect : Prop :=
  ∀ s : State, (∀ reg, enabled (.read reg) s = true ∧ stepEvent (.read reg) s = .next s) ∧
    s.hostRead .status = s.status ∧ s.hostRead .rdata = s.rdata ∧ s.ind .b0 = s.deb0.tog ∧ s.ind .b1 = s.deb1.tog

/-- 70_reset_and_hazards.md R155: reset, from any state, gives every register its reset value and empties both logs; the
environment's fields are not the block's (notes/assumptions/16.md). -/
def Obligations.ResetGivesResetValues : Prop :=
  ∀ s : State, ∃ t, stepEvent .reset s = .next t ∧ (∀ i : Fin 25, t.pb[i] = ⟨0, 0, 0⟩) ∧ t.color = ⟨0, 0, 0⟩ ∧ t.mapIdx = 0 ∧
    t.rdata = 0 ∧ t.err = false ∧ t.errCode = 0 ∧ t.initDone = false ∧ t.fatal = false ∧ t.chOk = false ∧ t.chBank = 0 ∧
    t.txState = .idle ∧ t.txIdx = 0 ∧ t.fifo = [] ∧ t.shreg = 0 ∧ t.shcnt = 0 ∧ t.settleCnt = 0 ∧ t.usPresc = 0 ∧
    t.nowMs = 0 ∧ t.deb0 = ⟨0, false, true⟩ ∧ t.deb1 = ⟨0, false, true⟩ ∧ t.ledLog = [] ∧ t.evt = [] ∧
    t.status = 0x00000000 ∧ t.ind .b0 = false ∧ t.ind .b1 = false ∧ t.ledDoutBetweenSymbols = false ∧
    (s = State.reset → t = s)

/-- 70_reset_and_hazards.md R156: right after reset exactly INIT and TMR have enabled steps; no other agent has one before
INIT_DONE = 1; INIT steps once; and if INIT sets FATAL the others stay disabled until the next reset. -/
def Obligations.AgentsEnabledAfterReset : Prop :=
  (∀ s t : State, stepEvent .reset s = .next t → enabled .init t = true ∧ enabled .tick t = true) ∧
  (∀ s : State, s.initDone = false ∨ s.fatal = true →
    ∀ e ∈ [Event.host, .txd, .txs, .deb .b0, .deb .b1], enabled e s = false) ∧
  (∀ s : State, s.initDone = true → enabled .init s = false) ∧
  ∀ (e : Event) (s t : State), stepEvent e s = .next t → e ≠ .reset →
    (s.initDone = true → t.initDone = true ∧ t.fatal = s.fatal) ∧ (e = .init → t.initDone = true)

/-! ### The transmitter -/

/-- 42_transmitter.md R101: bank 0, else bank 1, else FATAL; once after each reset. -/
def Obligations.InitAcquiresChannel : Prop :=
  (∀ s : State, s.initDone = false → stepEvent .init s = .next (
    if Config.bankAvail 0 then { s with chOk := true, chBank := 0, initDone := true }
    else if Config.bankAvail 1 then { s with chOk := true, chBank := 1, initDone := true }
    else { s with fatal := true, initDone := true })) ∧
  (∀ s : State, s.initDone = true → enabled .init s = false) ∧
  (acquireChannel false true State.reset).status = 0x00000818

/-- 42_transmitter.md R105, R106: when TXD pushes, what it pushes, and that a full queue makes it wait. -/
def Obligations.TxdPushesNextPixel : Prop :=
  (∀ s : State, enabled .txd s = true ↔ s.initDone = true ∧ s.fatal = false ∧ s.txState = .drain ∧ s.txIdx.val < 25 ∧
    s.fifo.length < Config.fifoDepth) ∧
  (∀ (s : State) (h : s.txIdx.val < 25), enabled .txd s = true → ∃ t, stepEvent .txd s = .next t ∧
    t.fifo = s.fifo ++ [s.pb[s.txIdx.val].g ++ s.pb[s.txIdx.val].r ++ s.pb[s.txIdx.val].b] ∧
    t.txIdx.val = s.txIdx.val + 1 ∧ t = { s with fifo := t.fifo, txIdx := t.txIdx }) ∧
  ∀ s : State, s.fifo.length = Config.fifoDepth → enabled .txd s = false

/-- 42_transmitter.md R107: when TXS loads, and what. -/
def Obligations.TxsLoadsHead : Prop :=
  (∀ s : State, s.loadEnabled = true ↔ s.initDone = true ∧ s.fatal = false ∧ s.txState = .drain ∧ s.shcnt = 0 ∧ s.fifo ≠ []) ∧
  ∀ (s : State) (w : PixelWord) (rest : List PixelWord), s.loadEnabled = true → s.fifo = w :: rest →
    stepEvent .txs s = .next { s with fifo := rest, shreg := w, shcnt := 24 }

/-- 42_transmitter.md R108: when TXS sends a bit, which bit, and when that ends the frame; the frame ends only on bit 0 of pixel
24 (in every state that meets the invariant). -/
def Obligations.TxsSendsBit : Prop :=
  (∀ s : State, s.bitEnabled = true ↔ s.initDone = true ∧ s.fatal = false ∧ s.txState = .drain ∧ 0 < s.shcnt.val) ∧
  (∀ s : State, s.bitEnabled = true → ∃ t, stepEvent .txs s = .next t ∧
    t.ledLog = s.ledLog ++ [.bit (s.shreg.getLsbD (s.shcnt.val - 1))] ∧ t.shcnt.val = s.shcnt.val - 1 ∧
    (s.shcnt.val = 1 ∧ s.txIdx.val = 25 ∧ s.fifo = [] → t.txState = .settle ∧ t.settleCnt.val = 100) ∧
    (¬(s.shcnt.val = 1 ∧ s.txIdx.val = 25 ∧ s.fifo = []) → t.txState = .drain ∧ t.settleCnt = s.settleCnt) ∧
    t = { s with ledLog := t.ledLog, shcnt := t.shcnt, txState := t.txState, settleCnt := t.settleCnt }) ∧
  ∀ s t : State, BlockInv s → s.txState = .drain → stepEvent .txs s = .next t → t.txState = .settle →
    s.shreg = s.pb[24].g ++ s.pb[24].r ++ s.pb[24].b ∧ t.ledLog = s.ledLog ++ [.bit (s.shreg.getLsbD 0)]

/-- 43_debounce.md R121: TICK_US is always enabled; what it does to US_PRESC and NOW_MS; and that after k ticks since reset
US_PRESC is k mod 1000 and NOW_MS is k div 1000 mod 2^32, whatever else happens in between. Nothing else of the block changes
but what the transmitter's part of the tick writes (42_transmitter.md R114). -/
def Obligations.TickAdvancesTimeBase : Prop :=
  (∀ s : State, enabled .tick s = true) ∧
  (∀ s : State, (s.txState ≠ .settle ∨ 0 < s.settleCnt.val) → ∃ t, stepEvent .tick s = .next t ∧
    t.usPresc.val = (s.usPresc.val + 1) % 1000 ∧ (t.usPresc.val = 0 → t.nowMs.toNat = (s.nowMs.toNat + 1) % 2 ^ 32) ∧
    (t.usPresc.val ≠ 0 → t.nowMs = s.nowMs) ∧
    t = { s with usPresc := t.usPresc, nowMs := t.nowMs, txState := t.txState, settleCnt := t.settleCnt, ledLog := t.ledLog }) ∧
  ∀ (es : List Event) (s t : State), s.usPresc = 0 → s.nowMs = 0 → (∀ e ∈ es, e ≠ .reset) → runEvents es s = .next t →
    t.usPresc.val = tickCount es % 1000 ∧ t.nowMs.toNat = tickCount es / 1000 % 2 ^ 32

/-- 42_transmitter.md R109 (bit order within a byte: notes/assumptions/13.md): the bits of a pixel on the line. -/
def Obligations.PixelBitsInWireOrder : Prop :=
  ∀ p : Pixel, (pixelWord p).toNat = p.g.toNat * 2 ^ 16 + p.r.toNat * 2 ^ 8 + p.b.toNat ∧
    wireBits (pixelWord p) = byteBits p.g ++ byteBits p.r ++ byteBits p.b

/-- 42_transmitter.md R115: a frame is 75 bytes, a triple green, red, blue per pixel, in index order. -/
def Obligations.FrameIsSeventyFiveBytes : Prop :=
  ∀ pb : Vector Pixel 25, (frameBytes pb).length = 75 ∧
    (∀ i : Fin 25, ((frameBytes pb).drop (3 * i.val)).take 3 = [pb[i].g, pb[i].r, pb[i].b]) ∧
    frameEvents pb = ((frameBytes pb).flatMap byteBits).map .bit ++ [.latch] ∧ (frameEvents pb).length = 601

/-- 42_transmitter.md R110: T_BIT = 1 / BIT_RATE, and the shape of a symbol, whose high time is the open value for its bit. -/
def Obligations.SymbolFillsOnePeriod : Prop :=
  Config.bitRateHz * Config.tBitNs = 10 ^ 9 ∧ ∀ b : Bool, ∃ high low, symbol b = [⟨true, high⟩, ⟨false, low⟩] ∧ high + low = 1250 ∧
    high = if b then Config.t1hNs.val else Config.t0hNs.val

/-- 10_state.md R44, 42_transmitter.md R111: LED_DOUT carries a symbol only in a TXS step of a frame, one bit at a time, and
Latch is recorded only by the tick that ends a hold; no other event but reset touches LEDLOG. -/
def Obligations.LineActiveOnlyInFrame : Prop :=
  ∀ (e : Event) (s t : State), stepEvent e s = .next t → e ≠ .reset → t.ledLog = s.ledLog ∨
    (e = .txs ∧ s.txState = .drain ∧ s.initDone = true ∧ s.fatal = false ∧ ∃ b, t.ledLog = s.ledLog ++ [.bit b]) ∨
    (e = .tick ∧ s.txState = .settle ∧ t.txState = .idle ∧ t.ledLog = s.ledLog ++ [.latch])

/-- 42_transmitter.md R112, as a law of every step: but for an accepted START and a reset, what LEDLOG holds together with
what the frame in progress still owes never changes. -/
def Obligations.PendingFrameConserved : Prop :=
  ∀ (e : Event) (s t : State), stepEvent e s = .next t → e ≠ .reset →
    (e = .host → ∀ w, s.cmdWord = some w → decode w = .start → s.cmdReady w = false) →
      t.ledLog ++ pendingEvents t = s.ledLog ++ pendingEvents s

/-- 42_transmitter.md R112, the frame law: whatever FIFO_DEPTH is and however the steps interleave, from the START to the end
of the hold exactly the frame of the buffer at the START is appended to LEDLOG. -/
def Obligations.FrameLaw : Prop :=
  ∀ (s s1 t : State) (es : List Event), BlockInv s → s.txState = .idle → exec .start s = .next s1 →
    InFrame es s1 → runEvents es s1 = .next t → t.txState = .idle → t.ledLog = s.ledLog ++ frameEvents s.pb

/-- 42_transmitter.md R119: while a frame or its hold is in progress some step of TXD, TXS or TMR is enabled and brings the end one
step nearer, and no other event but reset puts it off; so in every endless run that is fair as 00_scope.md R10 assumes (to TMR,
TXD and TXS alone) and has no reset the frame completes and its Latch is emitted, whatever the host does; a reset ends it at
once. -/
def Obligations.FrameMakesProgress : Prop :=
  (∀ s : State, BlockInv s → s.txState ≠ .idle →
    (∃ e ∈ [Event.txd, .txs, .tick], ∃ t, enabled e s = true ∧ stepEvent e s = .next t ∧ workLeft t + 1 = workLeft s) ∧
    ∀ (e : Event) (t : State), e ≠ .reset → stepEvent e s = .next t → workLeft t ≤ workLeft s) ∧
  (∀ (ev : Nat → Event) (st : Nat → State), FairRun ev st → BlockInv (st 0) → (st 0).txState ≠ .idle →
    (∀ n, ev n ≠ .reset) →
      ∃ n, (st n).txState = .idle ∧ (st n).ledLog = (st 0).ledLog ++ pendingEvents (st 0)) ∧
  ∀ s : State, ∃ t, stepEvent .reset s = .next t ∧ t.txState = .idle ∧ t.ledLog = []

/-- 42_transmitter.md R119: an accepted START can always be brought to its Latch by 750 steps of TXD, TXS and TMR, whatever
FIFO_DEPTH is. -/
def Obligations.FrameCanComplete : Prop :=
  ∀ (s s1 : State), BlockInv s → s.running = true → s.txState = .idle → exec .start s = .next s1 →
    ∃ es t, es.length = 750 ∧ (∀ e ∈ es, e ∈ [Event.txd, .txs, .tick]) ∧ runEvents es s1 = .next t ∧
      t.txState = .idle ∧ t.ledLog = s.ledLog ++ frameEvents s.pb ∧ t.pb = s.pb

/-- 42_transmitter.md R118, 10_state.md R48: until the hold has ended no second frame begins, and within a frame TX_IDX never
moves back and moves by at most one. -/
def Obligations.OneFrameInFlight : Prop :=
  ∀ (e : Event) (s t : State), stepEvent e s = .next t → e ≠ .reset → s.txState ≠ .idle →
    (t.txState = .drain → s.txState = .drain) ∧ s.txIdx.val ≤ t.txIdx.val ∧ t.txIdx.val ≤ s.txIdx.val + 1 ∧
    (t.txIdx ≠ s.txIdx → e = .txd) ∧
    ∀ w, s.cmdWord = some w → decode w = .start → s.cmdReady w = false

/-- 42_transmitter.md R117: TXD, TXS and TMR write none of PB, COLOR, MAP_IDX, RDATA, the error fields and the debounce
state. -/
def Obligations.TransmitterOnlyReadsBuffer : Prop :=
  ∀ e ∈ [Event.txd, .txs, .tick], ∀ s t : State, stepEvent e s = .next t →
    t.pb = s.pb ∧ t.color = s.color ∧ t.mapIdx = s.mapIdx ∧ t.rdata = s.rdata ∧ t.err = s.err ∧ t.errCode = s.errCode ∧
    t.deb0 = s.deb0 ∧ t.deb1 = s.deb1

/-- 20_memory.md R61 (b), 70_reset_and_hazards.md R162: while a frame drains no command is accepted and nothing but reset
changes the buffer. -/
def Obligations.BufferStableWhileDraining : Prop :=
  ∀ (e : Event) (s t : State), s.txState = .drain → stepEvent e s = .next t → e ≠ .reset →
    t.pb = s.pb ∧ t.color = s.color ∧ t.mapIdx = s.mapIdx ∧ t.rdata = s.rdata ∧ (e = .host → t = s)

/-- 42_transmitter.md R114: what a tick does to the hold, and that the hold lasts exactly as many ticks as SETTLE_CNT says, which
TXS sets to SETTLE_US = 100 (R108), whatever happens between them: as long as fewer have passed the block is still in SETTLE
and has latched nothing, and the next tick after the others ends it. In FATAL the hold never runs. -/
def Obligations.SettleHoldCountsTicks : Prop :=
  (∀ s t : State, stepEvent .tick s = .next t →
    (s.txState ≠ .settle → t.txState = s.txState ∧ t.settleCnt = s.settleCnt ∧ t.ledLog = s.ledLog) ∧
    (s.txState = .settle → t.settleCnt.val = s.settleCnt.val - 1 ∧
      (s.settleCnt.val = 1 → t.txState = .idle ∧ t.ledLog = s.ledLog ++ [.latch]) ∧
      (s.settleCnt.val ≠ 1 → t.txState = .settle ∧ t.ledLog = s.ledLog))) ∧
  (∀ (es : List Event) (s : State), s.txState = .settle → tickCount es < s.settleCnt.val → (∀ e ∈ es, e ≠ .reset) →
    (∃ t, runEvents es s = .next t ∧ t.txState = .settle ∧ t.ledLog = s.ledLog ∧
      t.settleCnt.val + tickCount es = s.settleCnt.val) ∧
    (tickCount es + 1 = s.settleCnt.val →
      ∃ t, runEvents (es ++ [.tick]) s = .next t ∧ t.txState = .idle ∧ t.ledLog = s.ledLog ++ [.latch])) ∧
  (∀ s t : State, s.txState = .drain → stepEvent .txs s = .next t → t.txState = .settle → t.settleCnt.val = 100) ∧
  ∀ s : State, BlockInv s → s.fatal = true → s.txState = .idle

/-- 10_state.md R30, 42_transmitter.md R116: after INIT neither channel field changes until reset, and without a channel no
frame is sent. -/
def Obligations.ChannelFixedUntilReset : Prop :=
  ∀ (e : Event) (s t : State), stepEvent e s = .next t → e ≠ .reset →
    (s.initDone = true → t.chOk = s.chOk ∧ t.chBank = s.chBank) ∧
    (BlockInv s → s.chOk = false → t.ledLog = [] ∧ t.txState = .idle)

/-- 60_exceptions.md R140: with FATAL = 1 CMD_READY is 0 for every word, no agent but TMR has an enabled step, TX_STATE is IDLE,
the line and the pins are low, STATUS shows FATAL = 1, CH_OK = 0, INIT_DONE = 1, and no event but reset changes anything except
the time base and what stands outside the block; a word on the port stays there. -/
def Obligations.FatalUntilReset : Prop :=
  ∀ s : State, BlockInv s → s.fatal = true →
    (∀ w, s.cmdReady w = false) ∧ (∀ e ∈ [Event.host, .init, .txd, .txs, .deb .b0, .deb .b1], enabled e s = false) ∧
    enabled .tick s = true ∧ s.status = 0x00000804 ∧ s.txState = .idle ∧ s.ledDoutBetweenSymbols = false ∧
    s.ind .b0 = false ∧ s.ind .b1 = false ∧
    ∀ (e : Event) (t : State), e ≠ .reset → stepEvent e s = .next t →
      t = { s with usPresc := t.usPresc, nowMs := t.nowMs, cmdQ := t.cmdQ, btn0 := t.btn0, btn1 := t.btn1 } ∧
      (e ≠ .tick → t.usPresc = s.usPresc ∧ t.nowMs = s.nowMs) ∧
      (∀ w rest, s.cmdQ = w :: rest → ∃ more, t.cmdQ = w :: rest ++ more)

/-! ### The invariant -/

/-- Every rule the invariant gathers holds right after reset. -/
def Obligations.InvariantAtReset : Prop := BlockInv State.reset

/-- 10_state.md R24, R25, R27, R29, R30, R33, R35, 42_transmitter.md R104, R105, 43_debounce.md R134: every step from every
state that meets the invariant, whatever event it is, keeps it. -/
def Obligations.InvariantKeptByStep : Prop :=
  ∀ s t : State, BlockInv s → step s = .next t → BlockInv t

/-- 00_scope.md R9: no rule leads to a fault, and no instruction is refused: from every state that meets the invariant the
machine goes on. -/
def Obligations.EveryStepGoesOn : Prop :=
  (∀ s : State, BlockInv s → ∃ t, step s = .next t) ∧ ∀ (i : Instr) (s : State), ∃ t, exec i s = .next t

/-! ### Time base and debounce -/

/-- 43_debounce.md R124, R128, R130: one sample: no edge, an accepted edge, a discarded edge. -/
def Obligations.DebounceSample : Prop :=
  ∀ (b : Button) (s : State), s.initDone = true → s.fatal = false →
    (¬((s.deb b).prev = true ∧ s.btn b = false) →
      stepEvent (.deb b) s = .next (s.setDeb b { s.deb b with prev := s.btn b })) ∧
    ((s.deb b).prev = true → s.btn b = false → 400 ≤ (s.nowMs - (s.deb b).lastTs).toNat →
      stepEvent (.deb b) s = .next { s.setDeb b ⟨s.nowMs, !(s.deb b).tog, false⟩ with
        evt := s.evt ++ [⟨b, !(s.deb b).tog⟩] }) ∧
    ((s.deb b).prev = true → s.btn b = false → (s.nowMs - (s.deb b).lastTs).toNat < 400 →
      stepEvent (.deb b) s = .next (s.setDeb b { s.deb b with prev := false }))

/-- 43_debounce.md R125: a button held at one level yields no edge after the sample that first sees it, however long it is held:
from a DEB_b sample on, over every run without reset in which the line BTN[b] does not move (time passes, other agents step and
b is sampled again as often as may be), no record is added for b and TOG[b], LAST_TS[b] and PREV[b] stay as that sample left
them. -/
def Obligations.HeldLineYieldsOneEdge : Prop :=
  ∀ (b : Button) (s t u : State) (es : List Event), s.initDone = true → s.fatal = false → stepEvent (.deb b) s = .next t →
    (∀ e ∈ es, e ≠ .reset ∧ ∀ level, e ≠ .button b level) → runEvents es t = .next u →
      notifiedValues b u.evt = notifiedValues b t.evt ∧ (u.deb b).tog = (t.deb b).tog ∧
      (u.deb b).lastTs = (t.deb b).lastTs ∧ (u.deb b).prev = (t.deb b).prev

/-- 43_debounce.md R126, R127: the boundary of the window, and its test across a wrap of NOW_MS. Beside them, of R132: the first
edge after reset is accepted exactly from 400 ms on, and sets the toggle. -/
def Obligations.WindowBoundaryInclusive : Prop :=
  (∀ now last : BitVec 32, (elapsedMs now last).toNat = (now.toNat + 2 ^ 32 - last.toNat) % 2 ^ 32 ∧
    (windowPassed now last = true ↔ 400 ≤ (elapsedMs now last).toNat)) ∧
  windowPassed 1400 1000 = true ∧ windowPassed 1399 1000 = false ∧
  (elapsedMs 0x00000090 0xFFFFFF00).toNat = 400 ∧ windowPassed 0x00000090 0xFFFFFF00 = true ∧
  windowPassed 0x0000008F 0xFFFFFF00 = false ∧
  ∀ now : BitVec 32, (DebUnit.reset.accepts now false = true ↔ 400 ≤ now.toNat) ∧
    (400 ≤ now.toNat → (DebUnit.reset.sample now false).tog = true)

/-- 43_debounce.md R133: the two instances neither write nor read each other's state, and sampling both buttons in either order
gives the same state but for the order of the records, each of which is the same. -/
def Obligations.ButtonsAreIndependent : Prop :=
  (∀ s : State, ∃ t u : State, runEvents [.deb .b0, .deb .b1] s = .next t ∧ runEvents [.deb .b1, .deb .b0] s = .next u ∧
    u = { t with evt := u.evt } ∧ ∀ b, notifiedValues b u.evt = notifiedValues b t.evt) ∧
  ∀ (b b' : Button) (d : DebUnit) (s : State), b' ≠ b → ∃ t, stepEvent (.deb b) s = .next t ∧ t.deb b' = s.deb b' ∧
    stepEvent (.deb b) (s.setDeb b' d) = .next (t.setDeb b' d)

/-- 43_debounce.md R135: a sample writes one instance's registers and EVT, nothing of the matrix, the transmitter, the port or
the time base; and it depends on none of PB, TX_STATE and CMD. -/
def Obligations.DebounceNeverTouchesMatrix : Prop :=
  (∀ (b : Button) (s : State), ∃ t, stepEvent (.deb b) s = .next t ∧
    t = { s with deb0 := t.deb0, deb1 := t.deb1, evt := t.evt } ∧ ∀ b', b' ≠ b → t.deb b' = s.deb b') ∧
  ∀ (b : Button) (s t : State) (pb : Vector Pixel 25) (tx : TxState) (q : List Word), stepEvent (.deb b) s = .next t →
    stepEvent (.deb b) { s with pb := pb, txState := tx, cmdQ := q } = .next { t with pb := pb, txState := tx, cmdQ := q }

/-- 43_debounce.md R134, R128: over any run without reset EVT only grows, and TOG[b] changes exactly as the parity of the edges
accepted for b. -/
def Obligations.TogglesFollowAcceptedEdges : Prop :=
  ∀ (es : List Event) (s t : State) (b : Button), (∀ e ∈ es, e ≠ .reset) → runEvents es s = .next t →
    ∃ more, t.evt = s.evt ++ more ∧
      ((notifiedValues b more).length % 2 = 0 → (t.deb b).tog = (s.deb b).tog) ∧
      ((notifiedValues b more).length % 2 = 1 → (t.deb b).tog = !(s.deb b).tog)

/-- 00_scope.md R17, 43_debounce.md R131: between two accepted edges of the same button, whatever happens between them but
reset, at least WINDOW_MS milliseconds are counted: at least 400 ticks of NOW_MS fall in the run between them. -/
def Obligations.AcceptedEdgesAreSpaced : Prop :=
  ∀ (b : Button) (s s1 s2 t : State) (es : List Event), stepEvent (.deb b) s = .next s1 → AcceptedEdge b s s1 →
    (∀ e ∈ es, e ≠ .reset) → runEvents es s1 = .next s2 → stepEvent (.deb b) s2 = .next t → AcceptedEdge b s2 t →
      400 ≤ (s1.usPresc.val + tickCount es) / 1000
end

