-- ==== Sys2Proof/Laws/State.lean ====
section
/-! SUPPORT. One lemma per field per named update of State: what the update leaves alone and what it writes. Later proofs cite
these (by simp) and do not unfold the updates. -/

namespace Sys2Proof.Machine

/-! ### The buffer replaced -/

@[simp] theorem withPb_pb (pb : Vector Pixel 25) (s : State) : (s.withPb pb).pb = pb := rfl
@[simp] theorem withPb_color (pb : Vector Pixel 25) (s : State) : (s.withPb pb).color = s.color := rfl
@[simp] theorem withPb_mapIdx (pb : Vector Pixel 25) (s : State) : (s.withPb pb).mapIdx = s.mapIdx := rfl
@[simp] theorem withPb_rdata (pb : Vector Pixel 25) (s : State) : (s.withPb pb).rdata = s.rdata := rfl
@[simp] theorem withPb_err (pb : Vector Pixel 25) (s : State) : (s.withPb pb).err = s.err := rfl
@[simp] theorem withPb_errCode (pb : Vector Pixel 25) (s : State) : (s.withPb pb).errCode = s.errCode := rfl
@[simp] theorem withPb_initDone (pb : Vector Pixel 25) (s : State) : (s.withPb pb).initDone = s.initDone := rfl
@[simp] theorem withPb_fatal (pb : Vector Pixel 25) (s : State) : (s.withPb pb).fatal = s.fatal := rfl
@[simp] theorem withPb_chOk (pb : Vector Pixel 25) (s : State) : (s.withPb pb).chOk = s.chOk := rfl
@[simp] theorem withPb_chBank (pb : Vector Pixel 25) (s : State) : (s.withPb pb).chBank = s.chBank := rfl
@[simp] theorem withPb_txState (pb : Vector Pixel 25) (s : State) : (s.withPb pb).txState = s.txState := rfl
@[simp] theorem withPb_txIdx (pb : Vector Pixel 25) (s : State) : (s.withPb pb).txIdx = s.txIdx := rfl
@[simp] theorem withPb_fifo (pb : Vector Pixel 25) (s : State) : (s.withPb pb).fifo = s.fifo := rfl
@[simp] theorem withPb_shreg (pb : Vector Pixel 25) (s : State) : (s.withPb pb).shreg = s.shreg := rfl
@[simp] theorem withPb_shcnt (pb : Vector Pixel 25) (s : State) : (s.withPb pb).shcnt = s.shcnt := rfl
@[simp] theorem withPb_settleCnt (pb : Vector Pixel 25) (s : State) : (s.withPb pb).settleCnt = s.settleCnt := rfl
@[simp] theorem withPb_usPresc (pb : Vector Pixel 25) (s : State) : (s.withPb pb).usPresc = s.usPresc := rfl
@[simp] theorem withPb_nowMs (pb : Vector Pixel 25) (s : State) : (s.withPb pb).nowMs = s.nowMs := rfl
@[simp] theorem withPb_deb0 (pb : Vector Pixel 25) (s : State) : (s.withPb pb).deb0 = s.deb0 := rfl
@[simp] theorem withPb_deb1 (pb : Vector Pixel 25) (s : State) : (s.withPb pb).deb1 = s.deb1 := rfl
@[simp] theorem withPb_ledLog (pb : Vector Pixel 25) (s : State) : (s.withPb pb).ledLog = s.ledLog := rfl
@[simp] theorem withPb_evt (pb : Vector Pixel 25) (s : State) : (s.withPb pb).evt = s.evt := rfl
@[simp] theorem withPb_cmdQ (pb : Vector Pixel 25) (s : State) : (s.withPb pb).cmdQ = s.cmdQ := rfl
@[simp] theorem withPb_btn0 (pb : Vector Pixel 25) (s : State) : (s.withPb pb).btn0 = s.btn0 := rfl
@[simp] theorem withPb_btn1 (pb : Vector Pixel 25) (s : State) : (s.withPb pb).btn1 = s.btn1 := rfl
@[simp] theorem withPb_script (pb : Vector Pixel 25) (s : State) : (s.withPb pb).script = s.script := rfl
@[simp] theorem withPb_freeCount (pb : Vector Pixel 25) (s : State) : (s.withPb pb).freeCount = s.freeCount := rfl

/-! ### An error recorded -/

@[simp] theorem raiseError_pb (c : ErrorCause) (s : State) : (s.raiseError c).pb = s.pb := rfl
@[simp] theorem raiseError_color (c : ErrorCause) (s : State) : (s.raiseError c).color = s.color := rfl
@[simp] theorem raiseError_mapIdx (c : ErrorCause) (s : State) : (s.raiseError c).mapIdx = s.mapIdx := rfl
@[simp] theorem raiseError_rdata (c : ErrorCause) (s : State) : (s.raiseError c).rdata = s.rdata := rfl
@[simp] theorem raiseError_err (c : ErrorCause) (s : State) : (s.raiseError c).err = true := rfl
@[simp] theorem raiseError_errCode (c : ErrorCause) (s : State) : (s.raiseError c).errCode = if s.errCode = 0 then c.code else s.errCode := rfl
@[simp] theorem raiseError_initDone (c : ErrorCause) (s : State) : (s.raiseError c).initDone = s.initDone := rfl
@[simp] theorem raiseError_fatal (c : ErrorCause) (s : State) : (s.raiseError c).fatal = s.fatal := rfl
@[simp] theorem raiseError_chOk (c : ErrorCause) (s : State) : (s.raiseError c).chOk = s.chOk := rfl
@[simp] theorem raiseError_chBank (c : ErrorCause) (s : State) : (s.raiseError c).chBank = s.chBank := rfl
@[simp] theorem raiseError_txState (c : ErrorCause) (s : State) : (s.raiseError c).txState = s.txState := rfl
@[simp] theorem raiseError_txIdx (c : ErrorCause) (s : State) : (s.raiseError c).txIdx = s.txIdx := rfl
@[simp] theorem raiseError_fifo (c : ErrorCause) (s : State) : (s.raiseError c).fifo = s.fifo := rfl
@[simp] theorem raiseError_shreg (c : ErrorCause) (s : State) : (s.raiseError c).shreg = s.shreg := rfl
@[simp] theorem raiseError_shcnt (c : ErrorCause) (s : State) : (s.raiseError c).shcnt = s.shcnt := rfl
@[simp] theorem raiseError_settleCnt (c : ErrorCause) (s : State) : (s.raiseError c).settleCnt = s.settleCnt := rfl
@[simp] theorem raiseError_usPresc (c : ErrorCause) (s : State) : (s.raiseError c).usPresc = s.usPresc := rfl
@[simp] theorem raiseError_nowMs (c : ErrorCause) (s : State) : (s.raiseError c).nowMs = s.nowMs := rfl
@[simp] theorem raiseError_deb0 (c : ErrorCause) (s : State) : (s.raiseError c).deb0 = s.deb0 := rfl
@[simp] theorem raiseError_deb1 (c : ErrorCause) (s : State) : (s.raiseError c).deb1 = s.deb1 := rfl
@[simp] theorem raiseError_ledLog (c : ErrorCause) (s : State) : (s.raiseError c).ledLog = s.ledLog := rfl
@[simp] theorem raiseError_evt (c : ErrorCause) (s : State) : (s.raiseError c).evt = s.evt := rfl
@[simp] theorem raiseError_cmdQ (c : ErrorCause) (s : State) : (s.raiseError c).cmdQ = s.cmdQ := rfl
@[simp] theorem raiseError_btn0 (c : ErrorCause) (s : State) : (s.raiseError c).btn0 = s.btn0 := rfl
@[simp] theorem raiseError_btn1 (c : ErrorCause) (s : State) : (s.raiseError c).btn1 = s.btn1 := rfl
@[simp] theorem raiseError_script (c : ErrorCause) (s : State) : (s.raiseError c).script = s.script := rfl
@[simp] theorem raiseError_freeCount (c : ErrorCause) (s : State) : (s.raiseError c).freeCount = s.freeCount := rfl

/-! ### An event on LED_DOUT -/

@[simp] theorem emitLed_pb (e : LedEvent) (s : State) : (s.emitLed e).pb = s.pb := rfl
@[simp] theorem emitLed_color (e : LedEvent) (s : State) : (s.emitLed e).color = s.color := rfl
@[simp] theorem emitLed_mapIdx (e : LedEvent) (s : State) : (s.emitLed e).mapIdx = s.mapIdx := rfl
@[simp] theorem emitLed_rdata (e : LedEvent) (s : State) : (s.emitLed e).rdata = s.rdata := rfl
@[simp] theorem emitLed_err (e : LedEvent) (s : State) : (s.emitLed e).err = s.err := rfl
@[simp] theorem emitLed_errCode (e : LedEvent) (s : State) : (s.emitLed e).errCode = s.errCode := rfl
@[simp] theorem emitLed_initDone (e : LedEvent) (s : State) : (s.emitLed e).initDone = s.initDone := rfl
@[simp] theorem emitLed_fatal (e : LedEvent) (s : State) : (s.emitLed e).fatal = s.fatal := rfl
@[simp] theorem emitLed_chOk (e : LedEvent) (s : State) : (s.emitLed e).chOk = s.chOk := rfl
@[simp] theorem emitLed_chBank (e : LedEvent) (s : State) : (s.emitLed e).chBank = s.chBank := rfl
@[simp] theorem emitLed_txState (e : LedEvent) (s : State) : (s.emitLed e).txState = s.txState := rfl
@[simp] theorem emitLed_txIdx (e : LedEvent) (s : State) : (s.emitLed e).txIdx = s.txIdx := rfl
@[simp] theorem emitLed_fifo (e : LedEvent) (s : State) : (s.emitLed e).fifo = s.fifo := rfl
@[simp] theorem emitLed_shreg (e : LedEvent) (s : State) : (s.emitLed e).shreg = s.shreg := rfl
@[simp] theorem emitLed_shcnt (e : LedEvent) (s : State) : (s.emitLed e).shcnt = s.shcnt := rfl
@[simp] theorem emitLed_settleCnt (e : LedEvent) (s : State) : (s.emitLed e).settleCnt = s.settleCnt := rfl
@[simp] theorem emitLed_usPresc (e : LedEvent) (s : State) : (s.emitLed e).usPresc = s.usPresc := rfl
@[simp] theorem emitLed_nowMs (e : LedEvent) (s : State) : (s.emitLed e).nowMs = s.nowMs := rfl
@[simp] theorem emitLed_deb0 (e : LedEvent) (s : State) : (s.emitLed e).deb0 = s.deb0 := rfl
@[simp] theorem emitLed_deb1 (e : LedEvent) (s : State) : (s.emitLed e).deb1 = s.deb1 := rfl
@[simp] theorem emitLed_ledLog (e : LedEvent) (s : State) : (s.emitLed e).ledLog = s.ledLog ++ [e] := rfl
@[simp] theorem emitLed_evt (e : LedEvent) (s : State) : (s.emitLed e).evt = s.evt := rfl
@[simp] theorem emitLed_cmdQ (e : LedEvent) (s : State) : (s.emitLed e).cmdQ = s.cmdQ := rfl
@[simp] theorem emitLed_btn0 (e : LedEvent) (s : State) : (s.emitLed e).btn0 = s.btn0 := rfl
@[simp] theorem emitLed_btn1 (e : LedEvent) (s : State) : (s.emitLed e).btn1 = s.btn1 := rfl
@[simp] theorem emitLed_script (e : LedEvent) (s : State) : (s.emitLed e).script = s.script := rfl
@[simp] theorem emitLed_freeCount (e : LedEvent) (s : State) : (s.emitLed e).freeCount = s.freeCount := rfl

/-! ### A notification record -/

@[simp] theorem emitNotify_pb (n : Notify) (s : State) : (s.emitNotify n).pb = s.pb := rfl
@[simp] theorem emitNotify_color (n : Notify) (s : State) : (s.emitNotify n).color = s.color := rfl
@[simp] theorem emitNotify_mapIdx (n : Notify) (s : State) : (s.emitNotify n).mapIdx = s.mapIdx := rfl
@[simp] theorem emitNotify_rdata (n : Notify) (s : State) : (s.emitNotify n).rdata = s.rdata := rfl
@[simp] theorem emitNotify_err (n : Notify) (s : State) : (s.emitNotify n).err = s.err := rfl
@[simp] theorem emitNotify_errCode (n : Notify) (s : State) : (s.emitNotify n).errCode = s.errCode := rfl
@[simp] theorem emitNotify_initDone (n : Notify) (s : State) : (s.emitNotify n).initDone = s.initDone := rfl
@[simp] theorem emitNotify_fatal (n : Notify) (s : State) : (s.emitNotify n).fatal = s.fatal := rfl
@[simp] theorem emitNotify_chOk (n : Notify) (s : State) : (s.emitNotify n).chOk = s.chOk := rfl
@[simp] theorem emitNotify_chBank (n : Notify) (s : State) : (s.emitNotify n).chBank = s.chBank := rfl
@[simp] theorem emitNotify_txState (n : Notify) (s : State) : (s.emitNotify n).txState = s.txState := rfl
@[simp] theorem emitNotify_txIdx (n : Notify) (s : State) : (s.emitNotify n).txIdx = s.txIdx := rfl
@[simp] theorem emitNotify_fifo (n : Notify) (s : State) : (s.emitNotify n).fifo = s.fifo := rfl
@[simp] theorem emitNotify_shreg (n : Notify) (s : State) : (s.emitNotify n).shreg = s.shreg := rfl
@[simp] theorem emitNotify_shcnt (n : Notify) (s : State) : (s.emitNotify n).shcnt = s.shcnt := rfl
@[simp] theorem emitNotify_settleCnt (n : Notify) (s : State) : (s.emitNotify n).settleCnt = s.settleCnt := rfl
@[simp] theorem emitNotify_usPresc (n : Notify) (s : State) : (s.emitNotify n).usPresc = s.usPresc := rfl
@[simp] theorem emitNotify_nowMs (n : Notify) (s : State) : (s.emitNotify n).nowMs = s.nowMs := rfl
@[simp] theorem emitNotify_deb0 (n : Notify) (s : State) : (s.emitNotify n).deb0 = s.deb0 := rfl
@[simp] theorem emitNotify_deb1 (n : Notify) (s : State) : (s.emitNotify n).deb1 = s.deb1 := rfl
@[simp] theorem emitNotify_ledLog (n : Notify) (s : State) : (s.emitNotify n).ledLog = s.ledLog := rfl
@[simp] theorem emitNotify_evt (n : Notify) (s : State) : (s.emitNotify n).evt = s.evt ++ [n] := rfl
@[simp] theorem emitNotify_cmdQ (n : Notify) (s : State) : (s.emitNotify n).cmdQ = s.cmdQ := rfl
@[simp] theorem emitNotify_btn0 (n : Notify) (s : State) : (s.emitNotify n).btn0 = s.btn0 := rfl
@[simp] theorem emitNotify_btn1 (n : Notify) (s : State) : (s.emitNotify n).btn1 = s.btn1 := rfl
@[simp] theorem emitNotify_script (n : Notify) (s : State) : (s.emitNotify n).script = s.script := rfl
@[simp] theorem emitNotify_freeCount (n : Notify) (s : State) : (s.emitNotify n).freeCount = s.freeCount := rfl

/-! ### Reset -/

@[simp] theorem hardReset_pb  (s : State) : (s.hardReset).pb = State.reset.pb := rfl
@[simp] theorem hardReset_color  (s : State) : (s.hardReset).color = State.reset.color := rfl
@[simp] theorem hardReset_mapIdx  (s : State) : (s.hardReset).mapIdx = State.reset.mapIdx := rfl
@[simp] theorem hardReset_rdata  (s : State) : (s.hardReset).rdata = State.reset.rdata := rfl
@[simp] theorem hardReset_err  (s : State) : (s.hardReset).err = State.reset.err := rfl
@[simp] theorem hardReset_errCode  (s : State) : (s.hardReset).errCode = State.reset.errCode := rfl
@[simp] theorem hardReset_initDone  (s : State) : (s.hardReset).initDone = State.reset.initDone := rfl
@[simp] theorem hardReset_fatal  (s : State) : (s.hardReset).fatal = State.reset.fatal := rfl
@[simp] theorem hardReset_chOk  (s : State) : (s.hardReset).chOk = State.reset.chOk := rfl
@[simp] theorem hardReset_chBank  (s : State) : (s.hardReset).chBank = State.reset.chBank := rfl
@[simp] theorem hardReset_txState  (s : State) : (s.hardReset).txState = State.reset.txState := rfl
@[simp] theorem hardReset_txIdx  (s : State) : (s.hardReset).txIdx = State.reset.txIdx := rfl
@[simp] theorem hardReset_fifo  (s : State) : (s.hardReset).fifo = State.reset.fifo := rfl
@[simp] theorem hardReset_shreg  (s : State) : (s.hardReset).shreg = State.reset.shreg := rfl
@[simp] theorem hardReset_shcnt  (s : State) : (s.hardReset).shcnt = State.reset.shcnt := rfl
@[simp] theorem hardReset_settleCnt  (s : State) : (s.hardReset).settleCnt = State.reset.settleCnt := rfl
@[simp] theorem hardReset_usPresc  (s : State) : (s.hardReset).usPresc = State.reset.usPresc := rfl
@[simp] theorem hardReset_nowMs  (s : State) : (s.hardReset).nowMs = State.reset.nowMs := rfl
@[simp] theorem hardReset_deb0  (s : State) : (s.hardReset).deb0 = State.reset.deb0 := rfl
@[simp] theorem hardReset_deb1  (s : State) : (s.hardReset).deb1 = State.reset.deb1 := rfl
@[simp] theorem hardReset_ledLog  (s : State) : (s.hardReset).ledLog = State.reset.ledLog := rfl
@[simp] theorem hardReset_evt  (s : State) : (s.hardReset).evt = State.reset.evt := rfl
@[simp] theorem hardReset_cmdQ  (s : State) : (s.hardReset).cmdQ = s.cmdQ := rfl
@[simp] theorem hardReset_btn0  (s : State) : (s.hardReset).btn0 = s.btn0 := rfl
@[simp] theorem hardReset_btn1  (s : State) : (s.hardReset).btn1 = s.btn1 := rfl
@[simp] theorem hardReset_script  (s : State) : (s.hardReset).script = s.script := rfl
@[simp] theorem hardReset_freeCount  (s : State) : (s.hardReset).freeCount = s.freeCount := rfl

/-! ### Registers of one debounce instance replaced, and a line moved -/

@[simp] theorem setDeb_pb (b : Button) (d : DebUnit) (s : State) : (s.setDeb b d).pb = s.pb := by cases b <;> rfl
@[simp] theorem setDeb_color (b : Button) (d : DebUnit) (s : State) : (s.setDeb b d).color = s.color := by cases b <;> rfl
@[simp] theorem setDeb_mapIdx (b : Button) (d : DebUnit) (s : State) : (s.setDeb b d).mapIdx = s.mapIdx := by cases b <;> rfl
@[simp] theorem setDeb_rdata (b : Button) (d : DebUnit) (s : State) : (s.setDeb b d).rdata = s.rdata := by cases b <;> rfl
@[simp] theorem setDeb_err (b : Button) (d : DebUnit) (s : State) : (s.setDeb b d).err = s.err := by cases b <;> rfl
@[simp] theorem setDeb_errCode (b : Button) (d : DebUnit) (s : State) : (s.setDeb b d).errCode = s.errCode := by cases b <;> rfl
@[simp] theorem setDeb_initDone (b : Button) (d : DebUnit) (s : State) : (s.setDeb b d).initDone = s.initDone := by cases b <;> rfl
@[simp] theorem setDeb_fatal (b : Button) (d : DebUnit) (s : State) : (s.setDeb b d).fatal = s.fatal := by cases b <;> rfl
@[simp] theorem setDeb_chOk (b : Button) (d : DebUnit) (s : State) : (s.setDeb b d).chOk = s.chOk := by cases b <;> rfl
@[simp] theorem setDeb_chBank (b : Button) (d : DebUnit) (s : State) : (s.setDeb b d).chBank = s.chBank := by cases b <;> rfl
@[simp] theorem setDeb_txState (b : Button) (d : DebUnit) (s : State) : (s.setDeb b d).txState = s.txState := by cases b <;> rfl
@[simp] theorem setDeb_txIdx (b : Button) (d : DebUnit) (s : State) : (s.setDeb b d).txIdx = s.txIdx := by cases b <;> rfl
@[simp] theorem setDeb_fifo (b : Button) (d : DebUnit) (s : State) : (s.setDeb b d).fifo = s.fifo := by cases b <;> rfl
@[simp] theorem setDeb_shreg (b : Button) (d : DebUnit) (s : State) : (s.setDeb b d).shreg = s.shreg := by cases b <;> rfl
@[simp] theorem setDeb_shcnt (b : Button) (d : DebUnit) (s : State) : (s.setDeb b d).shcnt = s.shcnt := by cases b <;> rfl
@[simp] theorem setDeb_settleCnt (b : Button) (d : DebUnit) (s : State) : (s.setDeb b d).settleCnt = s.settleCnt := by cases b <;> rfl
@[simp] theorem setDeb_usPresc (b : Button) (d : DebUnit) (s : State) : (s.setDeb b d).usPresc = s.usPresc := by cases b <;> rfl
@[simp] theorem setDeb_nowMs (b : Button) (d : DebUnit) (s : State) : (s.setDeb b d).nowMs = s.nowMs := by cases b <;> rfl
@[simp] theorem setDeb_ledLog (b : Button) (d : DebUnit) (s : State) : (s.setDeb b d).ledLog = s.ledLog := by cases b <;> rfl
@[simp] theorem setDeb_evt (b : Button) (d : DebUnit) (s : State) : (s.setDeb b d).evt = s.evt := by cases b <;> rfl
@[simp] theorem setDeb_cmdQ (b : Button) (d : DebUnit) (s : State) : (s.setDeb b d).cmdQ = s.cmdQ := by cases b <;> rfl
@[simp] theorem setDeb_btn0 (b : Button) (d : DebUnit) (s : State) : (s.setDeb b d).btn0 = s.btn0 := by cases b <;> rfl
@[simp] theorem setDeb_btn1 (b : Button) (d : DebUnit) (s : State) : (s.setDeb b d).btn1 = s.btn1 := by cases b <;> rfl
@[simp] theorem setDeb_script (b : Button) (d : DebUnit) (s : State) : (s.setDeb b d).script = s.script := by cases b <;> rfl
@[simp] theorem setDeb_freeCount (b : Button) (d : DebUnit) (s : State) : (s.setDeb b d).freeCount = s.freeCount := by cases b <;> rfl
@[simp] theorem setDeb_b0_deb0 (d : DebUnit) (s : State) : (s.setDeb .b0 d).deb0 = d := rfl
@[simp] theorem setDeb_b0_deb1 (d : DebUnit) (s : State) : (s.setDeb .b0 d).deb1 = s.deb1 := rfl
@[simp] theorem setDeb_b1_deb0 (d : DebUnit) (s : State) : (s.setDeb .b1 d).deb0 = s.deb0 := rfl
@[simp] theorem setDeb_b1_deb1 (d : DebUnit) (s : State) : (s.setDeb .b1 d).deb1 = d := rfl
@[simp] theorem setBtn_pb (b : Button) (l : Bool) (s : State) : (s.setBtn b l).pb = s.pb := by cases b <;> rfl
@[simp] theorem setBtn_color (b : Button) (l : Bool) (s : State) : (s.setBtn b l).color = s.color := by cases b <;> rfl
@[simp] theorem setBtn_mapIdx (b : Button) (l : Bool) (s : State) : (s.setBtn b l).mapIdx = s.mapIdx := by cases b <;> rfl
@[simp] theorem setBtn_rdata (b : Button) (l : Bool) (s : State) : (s.setBtn b l).rdata = s.rdata := by cases b <;> rfl
@[simp] theorem setBtn_err (b : Button) (l : Bool) (s : State) : (s.setBtn b l).err = s.err := by cases b <;> rfl
@[simp] theorem setBtn_errCode (b : Button) (l : Bool) (s : State) : (s.setBtn b l).errCode = s.errCode := by cases b <;> rfl
@[simp] theorem setBtn_initDone (b : Button) (l : Bool) (s : State) : (s.setBtn b l).initDone = s.initDone := by cases b <;> rfl
@[simp] theorem setBtn_fatal (b : Button) (l : Bool) (s : State) : (s.setBtn b l).fatal = s.fatal := by cases b <;> rfl
@[simp] theorem setBtn_chOk (b : Button) (l : Bool) (s : State) : (s.setBtn b l).chOk = s.chOk := by cases b <;> rfl
@[simp] theorem setBtn_chBank (b : Button) (l : Bool) (s : State) : (s.setBtn b l).chBank = s.chBank := by cases b <;> rfl
@[simp] theorem setBtn_txState (b : Button) (l : Bool) (s : State) : (s.setBtn b l).txState = s.txState := by cases b <;> rfl
@[simp] theorem setBtn_txIdx (b : Button) (l : Bool) (s : State) : (s.setBtn b l).txIdx = s.txIdx := by cases b <;> rfl
@[simp] theorem setBtn_fifo (b : Button) (l : Bool) (s : State) : (s.setBtn b l).fifo = s.fifo := by cases b <;> rfl
@[simp] theorem setBtn_shreg (b : Button) (l : Bool) (s : State) : (s.setBtn b l).shreg = s.shreg := by cases b <;> rfl
@[simp] theorem setBtn_shcnt (b : Button) (l : Bool) (s : State) : (s.setBtn b l).shcnt = s.shcnt := by cases b <;> rfl
@[simp] theorem setBtn_settleCnt (b : Button) (l : Bool) (s : State) : (s.setBtn b l).settleCnt = s.settleCnt := by cases b <;> rfl
@[simp] theorem setBtn_usPresc (b : Button) (l : Bool) (s : State) : (s.setBtn b l).usPresc = s.usPresc := by cases b <;> rfl
@[simp] theorem setBtn_nowMs (b : Button) (l : Bool) (s : State) : (s.setBtn b l).nowMs = s.nowMs := by cases b <;> rfl
@[simp] theorem setBtn_deb0 (b : Button) (l : Bool) (s : State) : (s.setBtn b l).deb0 = s.deb0 := by cases b <;> rfl
@[simp] theorem setBtn_deb1 (b : Button) (l : Bool) (s : State) : (s.setBtn b l).deb1 = s.deb1 := by cases b <;> rfl
@[simp] theorem setBtn_ledLog (b : Button) (l : Bool) (s : State) : (s.setBtn b l).ledLog = s.ledLog := by cases b <;> rfl
@[simp] theorem setBtn_evt (b : Button) (l : Bool) (s : State) : (s.setBtn b l).evt = s.evt := by cases b <;> rfl
@[simp] theorem setBtn_cmdQ (b : Button) (l : Bool) (s : State) : (s.setBtn b l).cmdQ = s.cmdQ := by cases b <;> rfl
@[simp] theorem setBtn_script (b : Button) (l : Bool) (s : State) : (s.setBtn b l).script = s.script := by cases b <;> rfl
@[simp] theorem setBtn_freeCount (b : Button) (l : Bool) (s : State) : (s.setBtn b l).freeCount = s.freeCount := by cases b <;> rfl

/-! ### Accessors after updates -/

@[simp] theorem deb_setDeb_same (b : Button) (d : DebUnit) (s : State) : (s.setDeb b d).deb b = d := by cases b <;> rfl

theorem deb_setDeb_other (b b' : Button) (d : DebUnit) (s : State) (h : b' ≠ b) : (s.setDeb b d).deb b' = s.deb b' := by
  cases b <;> cases b' <;> first | rfl | exact absurd rfl h

@[simp] theorem btn_setBtn_same (b : Button) (l : Bool) (s : State) : (s.setBtn b l).btn b = l := by cases b <;> rfl

theorem btn_setBtn_other (b b' : Button) (l : Bool) (s : State) (h : b' ≠ b) : (s.setBtn b l).btn b' = s.btn b' := by
  cases b <;> cases b' <;> first | rfl | exact absurd rfl h

@[simp] theorem btn_setDeb (b b' : Button) (d : DebUnit) (s : State) : (s.setDeb b d).btn b' = s.btn b' := by
  cases b <;> cases b' <;> rfl

@[simp] theorem btn_emitNotify (b : Button) (n : Notify) (s : State) : (s.emitNotify n).btn b = s.btn b := by cases b <;> rfl

@[simp] theorem deb_emitNotify (b : Button) (n : Notify) (s : State) : (s.emitNotify n).deb b = s.deb b := by cases b <;> rfl

@[simp] theorem deb_emitLed (b : Button) (e : LedEvent) (s : State) : (s.emitLed e).deb b = s.deb b := by cases b <;> rfl

@[simp] theorem deb_raiseError (b : Button) (c : ErrorCause) (s : State) : (s.raiseError c).deb b = s.deb b := by cases b <;> rfl

@[simp] theorem deb_withPb (b : Button) (pb : Vector Pixel 25) (s : State) : (s.withPb pb).deb b = s.deb b := by cases b <;> rfl

@[simp] theorem deb_setBtn (b b' : Button) (l : Bool) (s : State) : (s.setBtn b l).deb b' = s.deb b' := by
  cases b <;> cases b' <;> rfl

@[simp] theorem deb_hardReset (b : Button) (s : State) : s.hardReset.deb b = DebUnit.reset := by cases b <;> rfl

end Sys2Proof.Machine
end

