-- ==== Sys2Proof/Laws/Ops.lean ====
section
/-! SUPPORT. The laws of the shared operations: the pixel buffer, the two word layouts, the recording of errors, the operand
forms and the mapper. -/

namespace Sys2Proof.Machine

/-! ### Words -/

/-- A concatenation as a number. -/
theorem append_toNat {n m : Nat} (x : BitVec n) (y : BitVec m) : (x ++ y).toNat = x.toNat * 2 ^ m + y.toNat := by
  rw [BitVec.toNat_append, ← Nat.shiftLeft_add_eq_or_of_lt y.isLt, Nat.shiftLeft_eq]

/-- A field as a number. -/
theorem extract_toNat {n : Nat} (w : BitVec n) (lo len : Nat) :
    (w.extractLsb' lo len).toNat = w.toNat / 2 ^ lo % 2 ^ len := by
  rw [BitVec.extractLsb'_toNat, Nat.shiftRight_eq_div_pow]

/-- OP as a number. -/
theorem opField_toNat (w : Word) : (opField w).toNat = w.toNat / 2 ^ 28 := by
  have := w.isLt
  rw [opField, extract_toNat]
  omega

theorem pixelWord_toNat (p : Pixel) :
    (pixelWord p).toNat = p.g.toNat * 2 ^ 16 + p.r.toNat * 2 ^ 8 + p.b.toNat := by
  simp only [pixelWord, append_toNat]
  omega

theorem rdataWord_toNat (p : Pixel) :
    (rdataWord p).toNat = p.r.toNat * 2 ^ 16 + p.g.toNat * 2 ^ 8 + p.b.toNat := by
  simp only [rdataWord, append_toNat]
  simp
  omega

theorem rdataWord_lt (p : Pixel) : (rdataWord p).toNat < 2 ^ 24 := by
  have := p.r.isLt
  have := p.g.isLt
  have := p.b.isLt
  rw [rdataWord_toNat]
  omega

/-! ### The pixel buffer: reading after writing -/

theorem readPixel_setPixel_same (pb : Vector Pixel 25) (i : Fin 25) (p : Pixel) : readPixel (setPixel pb i p) i = p := by
  simp [readPixel, setPixel]

theorem readPixel_setPixel_other (pb : Vector Pixel 25) (i j : Fin 25) (p : Pixel) (h : j ≠ i) :
    readPixel (setPixel pb i p) j = readPixel pb j := by
  have hv : i.val ≠ j.val := fun e => h (Fin.ext e.symm)
  simp [readPixel, setPixel, hv]

theorem readPixel_blackBuffer (i : Fin 25) : readPixel blackBuffer i = Pixel.black := by
  simp [readPixel, blackBuffer]

/-- Two buffers that read the same everywhere are the same data: a buffer has one form (notes/assumptions/5.md). -/
theorem buffer_ext (a b : Vector Pixel 25) (h : ∀ i, readPixel a i = readPixel b i) : a = b := by
  ext1 i hi
  exact h ⟨i, hi⟩

/-! ### Errors -/

/-- All that raising an error can do (60_exceptions.md R137). -/
theorem raiseError_cases (c : ErrorCause) (s : State) :
    (s.errCode = 0 ∧ s.raiseError c = { s with err := true, errCode := c.code }) ∨
      (s.errCode ≠ 0 ∧ s.raiseError c = { s with err := true }) := by
  by_cases h : s.errCode = 0
  · exact .inl ⟨h, by rw [State.raiseError, if_pos h]⟩
  · exact .inr ⟨h, by rw [State.raiseError, if_neg h]⟩

theorem code_ne_zero (c : ErrorCause) : c.code ≠ 0 := by cases c <;> decide

theorem code_le_four (c : ErrorCause) : c.code.toNat ≤ 4 := by cases c <;> decide

theorem raiseError_errCode_ne_zero (c : ErrorCause) (s : State) : (s.raiseError c).errCode ≠ 0 := by
  rcases raiseError_cases c s with ⟨_, h⟩ | ⟨h0, h⟩
  · rw [h]; exact code_ne_zero c
  · rw [h]; exact h0

theorem raiseError_twice (c : ErrorCause) (s : State) : (s.raiseError c).raiseError c = s.raiseError c := by
  have h := raiseError_errCode_ne_zero c s
  rcases raiseError_cases c (s.raiseError c) with ⟨h0, _⟩ | ⟨_, h1⟩
  · exact absurd h0 h
  · rw [h1]; rfl

/-! ### Operands and the mapper -/

theorem gridCell_of_lt (x y : BitVec 3) (hx : x.toNat < 5) (hy : y.toNat < 5) :
    gridCell x y = some (⟨x.toNat, hx⟩, ⟨y.toNat, hy⟩) := by simp [gridCell, hx, hy]

theorem gridCell_of_ge (x y : BitVec 3) (h : 5 ≤ x.toNat ∨ 5 ≤ y.toNat) : gridCell x y = none := by
  have : ¬(x.toNat < 5 ∧ y.toNat < 5) := by omega
  simp [gridCell, this]

theorem digitOperand_of_lt (d : BitVec 4) (h : d.toNat < 10) : digitOperand d = some ⟨d.toNat, h⟩ := by
  simp [digitOperand, h]

theorem digitOperand_of_ge (d : BitVec 4) (h : 10 ≤ d.toNat) : digitOperand d = none := by
  have : ¬d.toNat < 10 := by omega
  simp [digitOperand, this]

theorem indexOperand_of_lt (i : BitVec 5) (h : i.toNat < 25) : indexOperand i = some ⟨i.toNat, h⟩ := by
  simp [indexOperand, h]

theorem indexOperand_of_ge (i : BitVec 5) (h : 25 ≤ i.toNat) : indexOperand i = none := by
  have : ¬i.toNat < 25 := by omega
  simp [indexOperand, this]

/-- Two cells that share an index are one cell (00_scope.md R14). -/
theorem mapIndex_injective : ∀ x y x' y' : Fin 5, mapIndex x y = mapIndex x' y' → x = x' ∧ y = y' := by decide

/-- Every index is some cell's (00_scope.md R14). -/
theorem mapIndex_surjective (i : Fin 25) : ∃ x y, mapIndex x y = i := by revert i; decide

end Sys2Proof.Machine
end

