-- ==== Sys2Proof/Laws/Commands.lean ====
section
/-! SUPPORT. What each command can do, said once: its result on each of its operand forms, and what every command leaves
alone. -/

namespace Sys2Proof.Machine

theorem exec_setxy_onGrid (x y : BitVec 3) (hx : x.toNat < 5) (hy : y.toNat < 5) (s : State) :
    exec (.setxy x y) s = .next (s.withPb (setPixel s.pb (mapIndex ⟨x.toNat, hx⟩ ⟨y.toNat, hy⟩) s.color)) := by
  simp [exec, execSetxy, gridCell_of_lt x y hx hy]

theorem exec_setxy_offGrid (x y : BitVec 3) (h : 5 ≤ x.toNat ∨ 5 ≤ y.toNat) (s : State) :
    exec (.setxy x y) s = .next (s.raiseError .badCoord) := by simp [exec, execSetxy, gridCell_of_ge x y h]

theorem exec_map_onGrid (x y : BitVec 3) (hx : x.toNat < 5) (hy : y.toNat < 5) (s : State) :
    exec (.map x y) s = .next { s with mapIdx := BitVec.ofNat 5 (mapIndex ⟨x.toNat, hx⟩ ⟨y.toNat, hy⟩).val } := by
  simp [exec, execMap, gridCell_of_lt x y hx hy]

theorem exec_map_offGrid (x y : BitVec 3) (h : 5 ≤ x.toNat ∨ 5 ≤ y.toNat) (s : State) :
    exec (.map x y) s = .next (s.raiseError .badCoord) := by simp [exec, execMap, gridCell_of_ge x y h]

theorem exec_rdpix_inRange (i : BitVec 5) (h : i.toNat < 25) (s : State) :
    exec (.rdpix i) s = .next { s with rdata := rdataWord (readPixel s.pb ⟨i.toNat, h⟩) } := by
  simp [exec, execRdpix, indexOperand_of_lt i h]

theorem exec_rdpix_outOfRange (i : BitVec 5) (h : 25 ≤ i.toNat) (s : State) :
    exec (.rdpix i) s = .next (s.raiseError .badIndex) := by simp [exec, execRdpix, indexOperand_of_ge i h]

theorem exec_render_digit (d : BitVec 4) (h : d.toNat < 10) (s : State) :
    exec (.render d) s = .next (s.withPb (drawGlyph (Config.glyph ⟨d.toNat, h⟩))) := by
  simp [exec, execRender, digitOperand_of_lt d h]

theorem exec_render_noDigit (d : BitVec 4) (h : 10 ≤ d.toNat) (s : State) :
    exec (.render d) s = .next (s.raiseError .badDigit) := by simp [exec, execRender, digitOperand_of_ge d h]

/-- The registers a command other than START may write (40_mapper_and_buffer.md R90): the buffer, COLOR, MAP_IDX, RDATA and
the error fields; and in what ways. -/
theorem exec_cases (i : Instr) (s : State) :
    (i = .start ∧ exec i s = .next { s with txState := .drain, txIdx := 0 }) ∨
    exec i s = .next s ∨
    (∃ pb, exec i s = .next (s.withPb pb)) ∨
    (∃ c, exec i s = .next { s with color := c }) ∨
    (∃ k : Fin 25, exec i s = .next { s with mapIdx := BitVec.ofNat 5 k.val }) ∨
    (∃ p, exec i s = .next { s with rdata := rdataWord p }) ∨
    (∃ c, exec i s = .next (s.raiseError c)) := by
  cases i with
  | nop => exact .inr (.inl rfl)
  | clear => exact .inr (.inr (.inl ⟨_, rfl⟩))
  | setcolor r g b => exact .inr (.inr (.inr (.inl ⟨_, rfl⟩)))
  | setxy x y =>
    by_cases h : x.toNat < 5 ∧ y.toNat < 5
    · exact .inr (.inr (.inl ⟨_, exec_setxy_onGrid x y h.1 h.2 s⟩))
    · exact .inr (.inr (.inr (.inr (.inr (.inr ⟨_, exec_setxy_offGrid x y (by omega) s⟩)))))
  | render d =>
    by_cases h : d.toNat < 10
    · exact .inr (.inr (.inl ⟨_, exec_render_digit d h s⟩))
    · exact .inr (.inr (.inr (.inr (.inr (.inr ⟨_, exec_render_noDigit d (by omega) s⟩)))))
  | start => exact .inl ⟨rfl, rfl⟩
  | map x y =>
    by_cases h : x.toNat < 5 ∧ y.toNat < 5
    · exact .inr (.inr (.inr (.inr (.inl ⟨_, exec_map_onGrid x y h.1 h.2 s⟩))))
    · exact .inr (.inr (.inr (.inr (.inr (.inr ⟨_, exec_map_offGrid x y (by omega) s⟩)))))
  | rdpix k =>
    by_cases h : k.toNat < 25
    · exact .inr (.inr (.inr (.inr (.inr (.inl ⟨_, exec_rdpix_inRange k h s⟩)))))
    · exact .inr (.inr (.inr (.inr (.inr (.inr ⟨_, exec_rdpix_outOfRange k (by omega) s⟩)))))
  | reserved op => exact .inr (.inr (.inr (.inr (.inr (.inr ⟨_, rfl⟩)))))

/-! ### The renderer -/

/-- One turn of the loops writes the one pixel of its cell, if the cell is set. -/
theorem readPixel_drawCell (bits : BitVec 25) (pb : Vector Pixel 25) (c : Fin 5 × Fin 5) (i : Fin 25) :
    readPixel (drawCell bits pb c) i =
      if i = mapIndex c.1 c.2 ∧ cellLit bits c.1 c.2 = true then Config.lit else readPixel pb i := by
  unfold drawCell
  by_cases hl : cellLit bits c.1 c.2 = true
  · by_cases hi : i = mapIndex c.1 c.2
    · simp [hl, hi, readPixel_setPixel_same]
    · simp [hl, hi, readPixel_setPixel_other _ _ _ _ hi]
  · simp [hl]

/-- The loops over a list of cells: an index is lit if a set cell of the list maps to it, and otherwise as before. -/
theorem readPixel_drawCells (bits : BitVec 25) (cs : List (Fin 5 × Fin 5)) (pb : Vector Pixel 25) (i : Fin 25) :
    readPixel (cs.foldl (drawCell bits) pb) i =
      if ∃ c ∈ cs, i = mapIndex c.1 c.2 ∧ cellLit bits c.1 c.2 = true then Config.lit else readPixel pb i := by
  induction cs generalizing pb with
  | nil => simp
  | cons c cs ih =>
    rw [List.foldl_cons, ih, readPixel_drawCell]
    by_cases h1 : ∃ c ∈ cs, i = mapIndex c.1 c.2 ∧ cellLit bits c.1 c.2 = true
    · have h2 : ∃ c' ∈ c :: cs, i = mapIndex c'.1 c'.2 ∧ cellLit bits c'.1 c'.2 = true :=
        h1.imp fun _ h => ⟨List.mem_cons_of_mem _ h.1, h.2⟩
      rw [if_pos h1, if_pos h2]
    · rw [if_neg h1]
      by_cases h3 : i = mapIndex c.1 c.2 ∧ cellLit bits c.1 c.2 = true
      · rw [if_pos h3, if_pos ⟨c, List.mem_cons_self, h3⟩]
      · rw [if_neg h3, if_neg]
        rintro ⟨c', hc', h⟩
        rcases List.mem_cons.mp hc' with rfl | hm
        · exact h3 h
        · exact h1 ⟨c', hm, h⟩

/-- Every cell is in the renderer's loops. -/
theorem mem_gridCells : ∀ c : Fin 5 × Fin 5, c ∈ gridCells := by decide

/-- What a bitmap renders to, cell by cell (41_glyph_render.md R96). -/
theorem readPixel_drawGlyph (bits : BitVec 25) (x y : Fin 5) :
    readPixel (drawGlyph bits) (mapIndex x y) = if cellLit bits x y then Config.lit else Pixel.black := by
  rw [drawGlyph, readPixel_drawCells, readPixel_blackBuffer]
  by_cases h : cellLit bits x y = true
  · rw [if_pos ⟨(x, y), mem_gridCells _, rfl, h⟩, if_pos h]
  · rw [if_neg, if_neg h]
    rintro ⟨c, -, hm, hl⟩
    obtain ⟨hx, hy⟩ := mapIndex_injective _ _ _ _ hm
    rw [← hx, ← hy] at hl
    exact h hl

end Sys2Proof.Machine
end

