-- ==== Sys2Proof/Laws/Agents.lean ====
section
/-! SUPPORT. Everything a step of any agent can do, said once: `Moves e s t` lists the ways event e takes s to t, and
`moves_of_stepEvent` is the inversion that every later proof about steps starts from. -/

namespace Sys2Proof.Machine

/-! ### When an agent is enabled -/

theorem running_iff (s : State) : s.running = true ↔ s.initDone = true ∧ s.fatal = false := by simp [State.running]

theorem running_false_iff (s : State) : s.running = false ↔ s.initDone = false ∨ s.fatal = true := by
  cases hi : s.initDone <;> cases hf : s.fatal <;> simp [State.running, hi, hf]

theorem txdEnabled_iff (s : State) : s.txdEnabled = true ↔
    s.running = true ∧ s.txState = .drain ∧ s.txIdx.val < 25 ∧ s.fifo.length < Config.fifoDepth := by
  simp [State.txdEnabled, and_assoc]

theorem loadEnabled_iff (s : State) : s.loadEnabled = true ↔
    s.running = true ∧ s.txState = .drain ∧ s.shcnt = 0 ∧ s.fifo ≠ [] := by
  simp [State.loadEnabled, and_assoc]

theorem bitEnabled_iff (s : State) : s.bitEnabled = true ↔
    s.running = true ∧ s.txState = .drain ∧ 0 < s.shcnt.val := by
  simp [State.bitEnabled, and_assoc]

theorem cmdReady_iff (w : Word) (s : State) : s.cmdReady w = true ↔
    s.running = true ∧ s.txState ≠ .drain ∧ ¬(opField w = 0x5#4 ∧ s.txState = .settle) := by
  rw [running_iff]
  simp only [State.cmdReady, Bool.and_eq_true, Bool.not_eq_true', bne_iff_ne, ne_eq, Bool.and_eq_false_iff, beq_eq_false_iff_ne]
  tauto

/-- A word decodes to START exactly when its opcode is 5 (30_encoding.md R68). -/
theorem decode_eq_start (w : Word) : decode w = .start ↔ opField w = 0x5#4 := by
  constructor
  · intro h
    apply BitVec.eq_of_toNat_eq
    unfold decode at h
    split at h <;> first | assumption | exact absurd h (by simp)
  · intro h
    simp [decode, h]

theorem stepEvent_of_enabled {e : Event} {s : State} (h : enabled e s = true) : stepEvent e s = fire e s := by
  rw [stepEvent, if_pos h]

theorem stepEvent_of_disabled {e : Event} {s : State} (h : enabled e s = false) : stepEvent e s = .next s := by
  rw [stepEvent, if_neg (by rw [h]; decide)]

/-! ### What a step does -/

/-- The state after a bit that is not the last of its frame. -/
def bitSent (s : State) (h : 0 < s.shcnt.val) : State :=
  { s with
    ledLog := s.ledLog ++ [.bit (s.shreg.getLsbD (s.shcnt.val - 1))]
    shcnt := (⟨s.shcnt.val - 1, by omega⟩ : Fin 24).castSucc }

/-- The ways an event takes one state to another. -/
inductive Moves : Event → State → State → Prop where
  | stall {e s} (h : enabled e s = false) : Moves e s s
  | init {s} (h : s.initDone = false) : Moves .init s (initStep s)
  | txd {s} (hr : s.running = true) (hd : s.txState = .drain) (hi : s.txIdx.val < 25)
      (hf : s.fifo.length < Config.fifoDepth) :
      Moves .txd s { s with
        fifo := s.fifo ++ [pixelWord (readPixel s.pb ⟨s.txIdx.val, hi⟩)]
        txIdx := (⟨s.txIdx.val, hi⟩ : Fin 25).succ }
  | load {s w rest} (hr : s.running = true) (hd : s.txState = .drain) (hc : s.shcnt = 0) (hf : s.fifo = w :: rest) :
      Moves .txs s { s with fifo := rest, shreg := w, shcnt := 24 }
  | bit {s} (hr : s.running = true) (hd : s.txState = .drain) (hc : 0 < s.shcnt.val)
      (hn : ¬(s.shcnt.val = 1 ∧ s.txIdx.val = 25 ∧ s.fifo = [])) : Moves .txs s (bitSent s hc)
  | lastBit {s} (hr : s.running = true) (hd : s.txState = .drain) (hc : s.shcnt.val = 1) (hi : s.txIdx.val = 25)
      (hf : s.fifo = []) :
      Moves .txs s { bitSent s (by omega) with txState := .settle, settleCnt := 100 }
  | tick {s} (hn : s.txState ≠ .settle) : Moves .tick s (timeBaseTick s)
  | tickHold {s} (hs : s.txState = .settle) (hc : 1 < s.settleCnt.val) :
      Moves .tick s { timeBaseTick s with settleCnt := ⟨s.settleCnt.val - 1, by omega⟩ }
  | tickLatch {s} (hs : s.txState = .settle) (hc : s.settleCnt.val = 1) :
      Moves .tick s { timeBaseTick s with settleCnt := 0, txState := .idle, ledLog := s.ledLog ++ [.latch] }
  | debQuiet {s b} (hr : s.running = true) (hn : (s.deb b).accepts s.nowMs (s.btn b) = false) :
      Moves (.deb b) s (s.setDeb b { s.deb b with prev := s.btn b })
  | debAccept {s b} (hr : s.running = true) (ha : (s.deb b).accepts s.nowMs (s.btn b) = true) :
      Moves (.deb b) s ((s.setDeb b ⟨s.nowMs, !(s.deb b).tog, s.btn b⟩).emitNotify ⟨b, !(s.deb b).tog⟩)
  | host {s w rest t} (hq : s.cmdQ = w :: rest) (hc : s.cmdReady w = true)
      (hx : exec (decode w) { s with cmdQ := rest } = .next t) : Moves .host s t
  | read {s r} : Moves (.read r) s s
  | present {s w} : Moves (.present w) s { s with cmdQ := s.cmdQ ++ [w] }
  | button {s b l} : Moves (.button b l) s (s.setBtn b l)
  | reset {s} : Moves .reset s s.hardReset

@[simp] theorem timeBaseTick_txState (s : State) : (timeBaseTick s).txState = s.txState := by
  unfold timeBaseTick; split <;> rfl

@[simp] theorem timeBaseTick_settleCnt (s : State) : (timeBaseTick s).settleCnt = s.settleCnt := by
  unfold timeBaseTick; split <;> rfl

@[simp] theorem timeBaseTick_ledLog (s : State) : (timeBaseTick s).ledLog = s.ledLog := by
  unfold timeBaseTick; split <;> rfl

/-- The time base is all that its tick writes (43_debounce.md R121). -/
theorem timeBaseTick_frame (s : State) :
    timeBaseTick s = { s with usPresc := (timeBaseTick s).usPresc, nowMs := (timeBaseTick s).nowMs } := by
  unfold timeBaseTick; split <;> rfl

theorem timeBaseTick_usPresc (s : State) : (timeBaseTick s).usPresc.val = (s.usPresc.val + 1) % 1000 := by
  have := s.usPresc.isLt
  unfold timeBaseTick
  split
  · simp; omega
  · have h : s.usPresc.val + 1 = 1000 := by omega
    simp [h]

theorem timeBaseTick_nowMs (s : State) :
    (timeBaseTick s).nowMs = if s.usPresc.val = 999 then s.nowMs + 1 else s.nowMs := by
  have := s.usPresc.isLt
  unfold timeBaseTick
  split
  · rw [if_neg (by omega)]
  · rw [if_pos (by omega)]

/-- The bit step, by whether its bit is the last of the frame (42_transmitter.md R108). -/
theorem bitStep_eq (s : State) (hc : 0 < s.shcnt.val) :
    bitStep s = if s.shcnt.val = 1 ∧ s.txIdx.val = 25 ∧ s.fifo = [] then
      { bitSent s hc with txState := .settle, settleCnt := 100 } else bitSent s hc := by
  have h1 : ((⟨s.shcnt.val - 1, by omega⟩ : Fin 24).castSucc = (0 : Fin 25)) ↔ s.shcnt.val = 1 := by
    simp only [Fin.ext_iff, Fin.val_castSucc, Fin.val_zero]
    omega
  have h2 : (s.txIdx = (25 : Fin 26)) ↔ s.txIdx.val = 25 := by
    simp only [Fin.ext_iff]
    rfl
  rw [bitStep, dif_pos hc]
  simp only [endFrame, emitLed_txIdx, emitLed_fifo, h1, h2]
  rfl

/-- What INIT can do: a channel of bank 0, of bank 1, or none (42_transmitter.md R101). -/
theorem initStep_cases (s : State) :
    (Config.bankAvail 0 = true ∧ initStep s = { s with chOk := true, chBank := 0, initDone := true }) ∨
    (Config.bankAvail 0 = false ∧ Config.bankAvail 1 = true ∧
      initStep s = { s with chOk := true, chBank := 1, initDone := true }) ∨
    (Config.bankAvail 0 = false ∧ Config.bankAvail 1 = false ∧
      initStep s = { s with fatal := true, initDone := true }) := by
  cases h0 : Config.bankAvail 0 <;> cases h1 : Config.bankAvail 1 <;> simp [initStep, acquireChannel, h0, h1]

/-- The four registers INIT writes (42_transmitter.md R101). -/
theorem initStep_frame (s : State) : initStep s = { s with
    chOk := (initStep s).chOk, chBank := (initStep s).chBank, fatal := (initStep s).fatal, initDone := true } := by
  rcases initStep_cases s with ⟨-, h⟩ | ⟨-, -, h⟩ | ⟨-, -, h⟩ <;> rw [h]

theorem txs_moves {s t : State} (he : enabled .txs s = true) (h : fire .txs s = .next t) : Moves .txs s t := by
  have ht : txsStep s = t := by simpa [fire] using h
  subst ht
  cases hb : s.bitEnabled
  · have hl : s.loadEnabled = true := by simpa [enabled, hb] using he
    obtain ⟨hr, hd, hc, hf⟩ := (loadEnabled_iff s).mp hl
    obtain ⟨w, rest, hw⟩ := List.exists_cons_of_ne_nil hf
    have : txsStep s = { s with fifo := rest, shreg := w, shcnt := 24 } := by simp [txsStep, hb, loadStep, hw]
    rw [this]
    exact .load hr hd hc hw
  · obtain ⟨hr, hd, hc⟩ := (bitEnabled_iff s).mp hb
    have : txsStep s = bitStep s := by simp [txsStep, hb]
    rw [this, bitStep_eq s hc]
    split
    · rename_i hx
      exact .lastBit hr hd hx.1 hx.2.1 hx.2.2
    · rename_i hx
      exact .bit hr hd hc hx

theorem tick_moves {s t : State} (h : fire .tick s = .next t) : Moves .tick s t := by
  simp only [fire, tickStep, settleTick] at h
  split at h
  · rename_i hs
    rw [timeBaseTick_txState] at hs
    split at h
    · rename_i hc
      rw [timeBaseTick_settleCnt] at hc
      split at h
      · rename_i h1
        rw [timeBaseTick_settleCnt] at h1
        injection h with h
        rw [← h]
        have := Moves.tickLatch hs (by rw [h1]; rfl : s.settleCnt.val = 1)
        simpa only [State.emitLed, timeBaseTick_ledLog] using this
      · rename_i h1
        rw [timeBaseTick_settleCnt] at h1
        have h1' : s.settleCnt.val ≠ 1 := fun e => h1 (Fin.ext e)
        injection h with h
        rw [← h]
        simp only [timeBaseTick_settleCnt]
        exact .tickHold hs (by omega)
    · cases h
  · rename_i hs
    rw [timeBaseTick_txState] at hs
    injection h with h
    rw [← h]
    exact .tick hs

theorem deb_moves {s t : State} {b : Button} (he : enabled (.deb b) s = true) (h : fire (.deb b) s = .next t) :
    Moves (.deb b) s t := by
  have hr : s.running = true := he
  have ht : debStep b s = t := by simpa [fire] using h
  subst ht
  cases ha : (s.deb b).accepts s.nowMs (s.btn b)
  · have : debStep b s = s.setDeb b { s.deb b with prev := s.btn b } := by simp [debStep, DebUnit.sample, ha]
    rw [this]
    exact .debQuiet hr ha
  · have : debStep b s = (s.setDeb b ⟨s.nowMs, !(s.deb b).tog, s.btn b⟩).emitNotify ⟨b, !(s.deb b).tog⟩ := by
      simp [debStep, DebUnit.sample, ha]
    rw [this]
    exact .debAccept hr ha

/-- The inversion: whatever an event does is one of the ways listed (00_scope.md R8, R9). -/
theorem moves_of_stepEvent {e : Event} {s t : State} (h : stepEvent e s = .next t) : Moves e s t := by
  cases he : enabled e s
  · rw [stepEvent_of_disabled he] at h
    injection h with h
    subst h
    exact .stall he
  · rw [stepEvent_of_enabled he] at h
    cases e with
    | init =>
      injection h with h
      subst h
      exact .init (by simpa [enabled] using he)
    | txd =>
      injection h with h
      obtain ⟨hr, hd, hi, hf⟩ := (txdEnabled_iff s).mp he
      rw [txdStep, dif_pos hi] at h
      subst h
      exact .txd hr hd hi hf
    | txs => exact txs_moves he h
    | tick => exact tick_moves h
    | deb b => exact deb_moves he h
    | host =>
      simp only [enabled, State.cmdWord] at he
      simp only [fire, hostStep] at h
      cases hq : s.cmdQ with
      | nil => simp [hq] at he
      | cons w rest =>
        simp only [hq, List.head?_cons] at he h
        exact .host hq he h
    | read r =>
      injection h with h
      subst h
      exact .read
    | present w =>
      injection h with h
      subst h
      exact .present
    | button b l =>
      injection h with h
      subst h
      exact .button
    | reset =>
      injection h with h
      subst h
      exact .reset

/-- The block goes on after every command (00_scope.md R9). -/
theorem exec_goes_on (i : Instr) (s : State) : ∃ t, exec i s = .next t := by
  rcases exec_cases i s with ⟨-, h⟩ | h | ⟨_, h⟩ | ⟨_, h⟩ | ⟨_, h⟩ | ⟨_, h⟩ | ⟨_, h⟩ <;> exact ⟨_, h⟩

/-- The only step that stops is a tick in a hold with nothing left to count (notes/assumptions/6.md). -/
theorem stepEvent_goes_on (e : Event) (s : State) (h : e = .tick → s.txState = .settle → 0 < s.settleCnt.val) :
    ∃ t, stepEvent e s = .next t := by
  cases he : enabled e s
  · exact ⟨s, stepEvent_of_disabled he⟩
  · rw [stepEvent_of_enabled he]
    cases e with
    | tick =>
      simp only [fire, tickStep, settleTick, timeBaseTick_txState, timeBaseTick_settleCnt]
      by_cases hs : s.txState = .settle
      · rw [if_pos hs, dif_pos (h rfl hs)]
        split <;> exact ⟨_, rfl⟩
      · rw [if_neg hs]
        exact ⟨_, rfl⟩
    | host =>
      simp only [fire, hostStep]
      split
      · exact ⟨_, rfl⟩
      · exact exec_goes_on _ _
    | init => exact ⟨_, rfl⟩
    | txd => exact ⟨_, rfl⟩
    | txs => exact ⟨_, rfl⟩
    | deb b => exact ⟨_, rfl⟩
    | read r => exact ⟨_, rfl⟩
    | present w => exact ⟨_, rfl⟩
    | button b l => exact ⟨_, rfl⟩
    | reset => exact ⟨_, rfl⟩

/-- No step answers a refusal, and the one fault is the tick's. -/
theorem stepEvent_not_refused (e : Event) (s : State) (r : Refusal) : stepEvent e s ≠ .refused r := by
  intro h
  by_cases hx : e = .tick → s.txState = .settle → 0 < s.settleCnt.val
  · obtain ⟨t, ht⟩ := stepEvent_goes_on e s hx
    rw [ht] at h
    cases h
  · have he : e = .tick := by
      by_contra hne
      exact hx fun h' => absurd h' hne
    subst he
    rw [stepEvent_of_enabled rfl] at h
    simp only [fire, tickStep, settleTick] at h
    repeat' split at h
    all_goals cases h

end Sys2Proof.Machine
end

