-- ==== Sys2Proof/Laws/Runs.lean ====
section
/-! SUPPORT. What a step does to the clock and to the debounce registers, said once over `Moves`, how a run of events is taken
apart, and how endless runs and fairness are shown. -/

namespace Sys2Proof.Machine

/-! ### Words -/

/-- Masking a word leaves a field alone that the mask keeps whole. -/
theorem extract_and (w m : Word) (lo len : Nat) (h : m.extractLsb' lo len = BitVec.allOnes len) :
    (w &&& m).extractLsb' lo len = w.extractLsb' lo len := by
  apply BitVec.eq_of_getLsbD_eq
  intro i hi
  have hm := congrArg (BitVec.getLsbD · i) h
  simp only [BitVec.getLsbD_extractLsb', BitVec.getLsbD_allOnes, hi, decide_true, Bool.true_and] at hm ⊢
  rw [BitVec.getLsbD_and, hm, Bool.and_true]

/-- START waits for IDLE (10_state.md R43). -/
theorem start_held {w : Word} {s : State} (hs : s.txState ≠ .idle) (hw : decode w = .start) : s.cmdReady w = false := by
  by_contra hn
  have h := (cmdReady_iff w s).mp (by simpa using hn)
  rw [decode_eq_start] at hw
  cases ht : s.txState with
  | idle => exact hs ht
  | drain => exact h.2.1 ht
  | settle => exact h.2.2 ⟨hw, ht⟩

/-! ### Runs -/

/-- A run of one event and then others. -/
theorem runEvents_cons {e : Event} {es : List Event} {s t : State} (h : runEvents (e :: es) s = .next t) :
    ∃ u, stepEvent e s = .next u ∧ runEvents es u = .next t := by
  simp only [runEvents] at h
  cases hh : stepEvent e s with
  | next u => exact ⟨u, rfl, by simpa [hh] using h⟩
  | fault => simp [hh] at h
  | refused => simp [hh] at h

/-- A run that goes on after another one. -/
theorem runEvents_append {es fs : List Event} {s t : State} (h : runEvents es s = .next t) :
    runEvents (es ++ fs) s = runEvents fs t := by
  induction es generalizing s with
  | nil => injection h with h; subst h; rfl
  | cons e es ih =>
    obtain ⟨u, hu, hr⟩ := runEvents_cons h
    simp only [List.cons_append, runEvents, hu]
    exact ih hr

theorem tickCount_cons (e : Event) (es : List Event) :
    tickCount (e :: es) = (if e = .tick then 1 else 0) + tickCount es := by
  by_cases h : e = .tick <;> simp [tickCount, h, Nat.add_comm]

theorem notifiedValues_append (b : Button) (l m : List Notify) :
    notifiedValues b (l ++ m) = notifiedValues b l ++ notifiedValues b m := by simp [notifiedValues]

/-! ### Endless runs -/

/-- What an agent can do does not depend on the schedule, which is no part of the block. -/
theorem enabled_schedule (e : Event) (s : State) (script : List Event) (freeCount : Nat) :
    enabled e { s with script := script, freeCount := freeCount } = enabled e s := by cases e <;> rfl

@[simp] theorem workLeft_schedule (s : State) (script : List Event) (freeCount : Nat) :
    workLeft { s with script := script, freeCount := freeCount } = workLeft s := rfl

@[simp] theorem pendingEvents_schedule (s : State) (script : List Event) (freeCount : Nat) :
    pendingEvents { s with script := script, freeCount := freeCount } = pendingEvents s := rfl

theorem BlockInv.schedule {s : State} (h : BlockInv s) (script : List Event) (freeCount : Nat) :
    BlockInv { s with script := script, freeCount := freeCount } :=
  { h with
    dormant := fun hr => by
      have hd := h.dormant hr
      simp only [Dormant] at hd ⊢
      rw [hd]
    toggles := h.toggles }

/-- Events that happen one after the other for ever are an endless run. -/
theorem endlessRun_of_events {ev : Nat → Event} {st : Nat → State}
    (h : ∀ n, stepEvent (ev n) (st n) = .next (st (n + 1))) : EndlessRun ev st :=
  fun n => ⟨(st n).script, (st n).freeCount, h n⟩

/-- The machine stepping for ever is an endless run of the events it takes. -/
theorem endlessRun_of_step {st : Nat → State} (h : ∀ n, step (st n) = .next (st (n + 1))) :
    EndlessRun (fun n => (st n).nextEvent.1) st := fun n => by
  refine ⟨(st n).nextEvent.2.script, (st n).nextEvent.2.freeCount, ?_⟩
  rw [← h n, step]
  congr 1
  unfold State.nextEvent
  split <;> rfl

/-- An event that happens again and again is treated fairly. -/
theorem weaklyFair_of_recurs {e : Event} {ev : Nat → Event} {st : Nat → State} (h : ∀ n, ∃ m ≥ n, ev m = e) :
    WeaklyFair e ev st := fun n _ => h n

/-- In a fair run time advances for ever, since TMR is always enabled (00_scope.md R10). -/
theorem FairRun.tick_recurs {ev : Nat → Event} {st : Nat → State} (h : FairRun ev st) (n : Nat) : ∃ m ≥ n, ev m = .tick :=
  h.tmr n fun _ _ => rfl

/-- A hold never is without a tick to come: every step keeps it so (42_transmitter.md R114). -/
theorem moves_hold {e : Event} {s t : State} (h : Moves e s t) (hs : s.txState = .settle → 0 < s.settleCnt.val) :
    t.txState = .settle → 0 < t.settleCnt.val := by
  cases h with
  | init => rw [initStep_frame]; exact hs
  | txd _ hd => simp [hd]
  | load _ hd => simp [hd]
  | bit _ hd => simp [bitSent, hd]
  | lastBit => simp
  | tick => simpa using hs
  | tickHold => simp; omega
  | tickLatch => simp
  | @host s w rest t _ _ hx =>
    rcases exec_cases (decode w) { s with cmdQ := rest } with ⟨-, h'⟩ | h' | ⟨_, h'⟩ | ⟨_, h'⟩ | ⟨_, h'⟩ | ⟨_, h'⟩ | ⟨_, h'⟩ <;>
      (rw [h'] at hx; injection hx with hx; subst hx; first | exact hs | simp)
  | reset => simp [State.reset]
  | debQuiet => simpa using hs
  | debAccept => simpa using hs
  | button => simpa using hs
  | _ => exact hs

/-! ### The clock and the debounce registers -/

/-- Only TICK_US moves the clock (43_debounce.md R122). -/
theorem moves_time {e : Event} {s t : State} (h : Moves e s t) (hne : e ≠ .reset) :
    (e = .tick → t.usPresc = (timeBaseTick s).usPresc ∧ t.nowMs = (timeBaseTick s).nowMs) ∧
      (e ≠ .tick → t.usPresc = s.usPresc ∧ t.nowMs = s.nowMs) := by
  cases h with
  | stall hq => exact ⟨fun he => (by subst he; cases hq), fun _ => ⟨rfl, rfl⟩⟩
  | reset => exact absurd rfl hne
  | tick => exact ⟨fun _ => ⟨rfl, rfl⟩, fun he => absurd rfl he⟩
  | tickHold => exact ⟨fun _ => ⟨rfl, rfl⟩, fun he => absurd rfl he⟩
  | tickLatch => exact ⟨fun _ => ⟨rfl, rfl⟩, fun he => absurd rfl he⟩
  | init => rw [initStep_frame]; exact ⟨by simp, fun _ => ⟨rfl, rfl⟩⟩
  | @host s w rest t hq hc hx =>
    refine ⟨by simp, fun _ => ?_⟩
    rcases exec_cases (decode w) { s with cmdQ := rest } with ⟨-, h'⟩ | h' | ⟨_, h'⟩ | ⟨_, h'⟩ | ⟨_, h'⟩ | ⟨_, h'⟩ | ⟨_, h'⟩ <;>
      (rw [h'] at hx; injection hx with hx; subst hx; exact ⟨rfl, rfl⟩)
  | _ => exact ⟨by simp, fun _ => by simp [bitSent]⟩

/-- A step but reset either leaves EVT and button b's toggle and timestamp alone, or is an accepted edge of some button
(43_debounce.md R128, R130). -/
theorem moves_deb {e : Event} {s t : State} (h : Moves e s t) (hne : e ≠ .reset) (b : Button) :
    (t.evt = s.evt ∧ (t.deb b).tog = (s.deb b).tog ∧ (t.deb b).lastTs = (s.deb b).lastTs) ∨
      ∃ b', e = .deb b' ∧ (s.deb b').accepts s.nowMs (s.btn b') = true ∧ t.evt = s.evt ++ [⟨b', !(s.deb b').tog⟩] ∧
        (b = b' → (t.deb b).tog = !(s.deb b).tog ∧ (t.deb b).lastTs = s.nowMs) ∧
        (b ≠ b' → (t.deb b).tog = (s.deb b).tog ∧ (t.deb b).lastTs = (s.deb b).lastTs) := by
  cases h with
  | reset => exact absurd rfl hne
  | init => left; rw [initStep_frame]; cases b <;> exact ⟨rfl, rfl, rfl⟩
  | tick => left; rw [timeBaseTick_frame]; cases b <;> exact ⟨rfl, rfl, rfl⟩
  | tickHold => left; rw [timeBaseTick_frame]; cases b <;> exact ⟨rfl, rfl, rfl⟩
  | tickLatch => left; rw [timeBaseTick_frame]; cases b <;> exact ⟨rfl, rfl, rfl⟩
  | @host s w rest t hq hc hx =>
    left
    rcases exec_cases (decode w) { s with cmdQ := rest } with ⟨-, h'⟩ | h' | ⟨_, h'⟩ | ⟨_, h'⟩ | ⟨_, h'⟩ | ⟨_, h'⟩ | ⟨_, h'⟩ <;>
      (rw [h'] at hx; injection hx with hx; subst hx; cases b <;> exact ⟨rfl, rfl, rfl⟩)
  | @debQuiet s b' => left; cases b <;> cases b' <;> exact ⟨rfl, rfl, rfl⟩
  | @debAccept s b' hr ha =>
    right
    refine ⟨b', rfl, ha, by simp, ?_, ?_⟩
    · rintro rfl; cases b <;> exact ⟨rfl, rfl⟩
    · intro hb; cases b <;> cases b' <;> first | exact absurd rfl hb | exact ⟨rfl, rfl⟩
  | @button s b' => left; cases b <;> cases b' <;> exact ⟨rfl, rfl, rfl⟩
  | _ => left; cases b <;> exact ⟨rfl, rfl, rfl⟩

/-- Outside a hold a tick is the time base's step and nothing else. -/
theorem stepEvent_tick {s : State} (hs : s.txState ≠ .settle) : stepEvent .tick s = .next (timeBaseTick s) := by
  rw [stepEvent_of_enabled rfl]
  simp [fire, tickStep, settleTick, hs]

/-- A millisecond and more of ticks outside a hold, in any number: the clock alone moves. -/
theorem runEvents_ticks (n : Nat) (s : State) (hs : s.txState ≠ .settle) :
    ∃ t, runEvents (List.replicate n .tick) s = .next t ∧ t = { s with usPresc := t.usPresc, nowMs := t.nowMs } ∧
      t.usPresc.val = (s.usPresc.val + n) % 1000 ∧ t.nowMs = s.nowMs + BitVec.ofNat 32 ((s.usPresc.val + n) / 1000) := by
  induction n generalizing s with
  | zero =>
    have := s.usPresc.isLt
    exact ⟨s, rfl, rfl, by omega, by rw [Nat.div_eq_of_lt (by omega)]; simp⟩
  | succ n ih =>
    obtain ⟨t, ht, hf, hu, hm⟩ := ih (timeBaseTick s) (by simpa using hs)
    have h9 := s.usPresc.isLt
    refine ⟨t, ?_, ?_, ?_, ?_⟩
    · simp [List.replicate_succ, runEvents, stepEvent_tick hs, ht]
    · rw [timeBaseTick_frame] at hf
      exact hf
    · rw [hu, timeBaseTick_usPresc]
      omega
    · rw [hm, timeBaseTick_usPresc, timeBaseTick_nowMs]
      split
      · rw [BitVec.add_assoc]
        congr 1
        have : (s.usPresc.val + (n + 1)) / 1000 = 1 + ((s.usPresc.val + 1) % 1000 + n) / 1000 := by omega
        rw [this, BitVec.ofNat_add]
        rfl
      · have : (s.usPresc.val + (n + 1)) / 1000 = ((s.usPresc.val + 1) % 1000 + n) / 1000 := by omega
        rw [this]

/-- All that a sample does, in one form: the unit's registers, and a record if the edge is accepted (43_debounce.md R124). -/
theorem debStep_eq (b : Button) (s : State) :
    debStep b s = { s.setDeb b ((s.deb b).sample s.nowMs (s.btn b)) with
      evt := s.evt ++ if (s.deb b).accepts s.nowMs (s.btn b) then
        [⟨b, ((s.deb b).sample s.nowMs (s.btn b)).tog⟩] else [] } := by
  unfold debStep
  split <;> cases b <;> simp [State.setDeb, State.emitNotify, *]

end Sys2Proof.Machine
end

