-- ==== Sys2Proof/Laws/PerInstr.lean ====
section
/-! SUPPORT. Statements made per command. `OpField`: the encoding of a well-formed command carries the opcode of its row in
bits [31:28] (30_encoding.md R66, R68). -/

namespace Sys2Proof.Laws.OpField

open Sys2Proof.Machine

/-- OP of a command (30_encoding.md R68). -/
def opcode : Instr → Nat
  | .nop => 0
  | .clear => 1
  | .setcolor _ _ _ => 2
  | .setxy _ _ => 3
  | .render _ => 4
  | .start => 5
  | .map _ _ => 6
  | .rdpix _ => 7
  | .reserved op => op.toNat

/-- The encoding of the command has its opcode on top. -/
def Statement (i : Instr) : Prop := i.wellFormed = true → (encode i).toNat / 2 ^ 28 = opcode i

theorem nop : Statement .nop := fun _ => by decide

theorem clear : Statement .clear := fun _ => by decide

theorem setcolor (r g b : BitVec 8) : Statement (.setcolor r g b) := by
  intro _
  have := r.isLt
  have := g.isLt
  have := b.isLt
  simp only [encode, append_toNat, opcode]
  simp
  omega

theorem setxy (x y : BitVec 3) : Statement (.setxy x y) := by
  intro _
  have := x.isLt
  have := y.isLt
  simp only [encode, append_toNat, opcode]
  simp
  omega

theorem render (d : BitVec 4) : Statement (.render d) := by
  intro _
  have := d.isLt
  simp only [encode, append_toNat, opcode]
  simp
  omega

theorem start : Statement .start := fun _ => by decide

theorem map (x y : BitVec 3) : Statement (.map x y) := by
  intro _
  have := x.isLt
  have := y.isLt
  simp only [encode, append_toNat, opcode]
  simp
  omega

theorem rdpix (i : BitVec 5) : Statement (.rdpix i) := by
  intro _
  have := i.isLt
  simp only [encode, append_toNat, opcode]
  simp
  omega

theorem reserved (op : BitVec 4) : Statement (.reserved op) := by
  intro _
  simp only [encode, append_toNat, opcode]
  simp

end Sys2Proof.Laws.OpField
end

