-- ==== Sys2Proof/Tests/Slice0.lean ====
section
/-! SUPPORT. Small tests, each with its expected result from spec/ (95_test_vectors.md unless another rule is named), and for
every obligation with hypotheses a witness that meets them. -/

namespace Sys2Proof.Tests

open Sys2Proof Sys2Proof.Machine

/-! ### Helpers -/

/-- The default start of 95_test_vectors.md: reset, then INIT with a channel in bank 0. -/
def ready : State := acquireChannel true true State.reset

/-- What a field of the next state is. -/
def after {α : Type} (r : Result) (f : State → α) : Option α :=
  match r with
  | .next t => some (f t)
  | .fault _ => none
  | .refused _ => none

/-- The default start with one pixel written. -/
def withPixel (i : Fin 25) (p : Pixel) : State := ready.withPb (setPixel ready.pb i p)

/-- A button unit with these registers, on a block that runs, the line at a level, the clock at `now`. -/
def debAt (now : BitVec 32) (d : DebUnit) (level : Bool) : State := { ready with nowMs := now, deb0 := d, btn0 := level }

/-- The outcome of one DEB0 step: TOG0, LAST_TS0, PREV0, EVT. -/
def debOut (now : BitVec 32) (d : DebUnit) (level : Bool) : Option (DebUnit × List Notify) :=
  after (stepEvent (.deb .b0) (debAt now d level)) fun t => (t.deb0, t.evt)

/-- A block in the last bit of its frame. -/
def lastBitState : State := { ready with txState := .drain, txIdx := 25, shcnt := 1 }

/-- A block at the start of its hold. -/
def holdState : State := { ready with txState := .settle, txIdx := 25, settleCnt := 100, ledLog := [.bit false] }

/-- A block whose INIT found no channel. -/
def fatalState : State := acquireChannel false false State.reset

/-! ### Well-formedness and decoding -/

theorem test_wellFormed_refuses_low_reserved : (Instr.reserved 3).wellFormed = false := by decide
theorem test_wellFormed_boundary : (Instr.reserved 7).wellFormed = false ∧ (Instr.reserved 8).wellFormed = true := by decide

/-- The bit pictures of 30_encoding.md R66 written out, reserved bits 0. -/
theorem test_decode_pictures :
    decode 0b00000000000000000000000000000000 = .nop ∧ decode 0b00010000000000000000000000000000 = .clear ∧
    decode 0b00100000111111110000000010000001 = .setcolor 255 0 129 ∧
    decode 0b00110000000000000000000001100001 = .setxy 1 6 ∧ decode 0b01000000000000000000000000001010 = .render 10 ∧
    decode 0b01010000000000000000000000000000 = .start ∧ decode 0b01100000000000000000000000010100 = .map 4 1 ∧
    decode 0b01110000000000000000000000010011 = .rdpix 19 ∧ decode 0b10000000000000000000000000000000 = .reserved 8 ∧
    decode 0b11110000000000000000000000000000 = .reserved 15 := by decide

/-- Reserved bits are ignored (30_encoding.md R69, R73). -/
theorem test_decode_reserved_bits :
    decode 0x0ABCDEF0 = .nop ∧ decode 0x1FFFFFFF = .clear ∧ decode 0x2F123456 = .setcolor 0x12 0x34 0x56 ∧
    decode 0x3FFFFF8C = .setxy 4 0 ∧ decode 0x4FFFFFF3 = .render 3 ∧ decode 0x5FFFFFFF = .start ∧
    decode 0x6FFFFF8C = .map 4 0 ∧ decode 0x7FFFFFF8 = .rdpix 24 := by decide

/-- The words of 30_encoding.md R73 and 95_test_vectors.md, encoded. -/
theorem test_encode_words :
    encode .nop = 0x00000000 ∧ encode .clear = 0x10000000 ∧ encode (.setcolor 0x12 0x34 0x56) = 0x20123456 ∧
    encode (.setxy 2 3) = 0x30000032 ∧ encode (.render 3) = 0x40000003 ∧ encode .start = 0x50000000 ∧
    encode (.map 4 1) = 0x60000014 ∧ encode (.rdpix 24) = 0x70000018 ∧ encode (.reserved 15) = 0xF0000000 := by decide

/-- Only whole words are accesses (20_memory.md R56). -/
theorem test_access_width : decodeAccess 32 0x40000003 = .ok (.render 3) ∧ decodeAccess 8 3 = .error (.notWholeWord 8) ∧
    decodeTableWord 32 0x30000032 = some (.setxy 2 3) ∧ decodeTableWord 40 0 = none := by
  refine ⟨rfl, rfl, by decide, by decide⟩

/-- One word of every row of the table is the very next step's command, from reset and from a block with FATAL set. -/
theorem test_fetch_runs_command :
    after (step (State.reset.withFetchWord 32 0x00000000)) (·.err) = some false ∧
    after (step (State.reset.withFetchWord 32 0x10000000)) (·.pb[7]) = some ⟨0, 0, 0⟩ ∧
    after (step (State.reset.withFetchWord 32 0x20123456)) (·.color) = some ⟨0x12, 0x34, 0x56⟩ ∧
    after (step (State.reset.withFetchWord 32 0x30000053)) (·.errCode) = some 2 ∧
    after (step (State.reset.withFetchWord 32 0x40000003)) (·.err) = some false ∧
    after (step (State.reset.withFetchWord 32 0x50000000)) (·.txState) = some .drain ∧
    after (step (State.reset.withFetchWord 32 0x60000014)) (·.mapIdx) = some 19 ∧
    after (step (State.reset.withFetchWord 32 0x70000019)) (·.errCode) = some 4 ∧
    after (step (State.reset.withFetchWord 32 0x80000000)) (·.errCode) = some 1 ∧
    after (step (fatalState.withFetchWord 32 0x60000014)) (·.mapIdx) = some 19 := by decide

/-! ### Commands (L2.1 to L2.3, L2.8) -/

theorem test_map_vectors :
    after (exec (.map 0 0) ready) (·.mapIdx) = some 24 ∧ after (exec (.map 4 3) ready) (·.mapIdx) = some 9 ∧
    after (exec (.map 0 7) ready) (fun t => (t.mapIdx, t.errCode)) = some (0, 2) := by decide

/-- After .word 0x80000000, map 2, 2 reads 0x000C0868. -/
theorem test_map_status : after (exec (.map 2 2) (ready.raiseError .illegalOpcode)) State.status = some 0x000C0868 := by decide

theorem test_unmap_vectors : [0, 5, 9, 12, 15, 19, 20, 24].map unmapIndex =
    [(4, 4), (0, 3), (4, 3), (2, 2), (0, 1), (4, 1), (4, 0), (0, 0)] := by decide

theorem test_setcolor_setxy : after (exec (.setcolor 0x12 0x34 0x56) ready) (·.color) = some ⟨0x12, 0x34, 0x56⟩ ∧
    after (exec (.setxy 4 4) { ready with color := ⟨0x12, 0x34, 0x56⟩ }) (fun t => (t.pb[0], t.pb[1])) =
      some (⟨0x12, 0x34, 0x56⟩, ⟨0, 0, 0⟩) := by decide

theorem test_setxy_mapped_and_off : after (exec (.setxy 2 3) { ready with color := Config.lit }) (·.pb[7]) = some ⟨40, 0, 0⟩ ∧
    after (exec (.setxy 3 5) { ready with color := Config.lit }) (fun t => (t.pb[3], t.err, t.errCode)) =
      some (⟨0, 0, 0⟩, true, 2) := by decide

theorem test_clear : after (exec .clear (withPixel 5 ⟨9, 9, 9⟩)) (·.pb[5]) = some ⟨0, 0, 0⟩ := by decide

theorem test_rdpix : after (exec (.rdpix 0) (withPixel 0 ⟨0x12, 0x34, 0x56⟩)) (·.rdata) = some 0x00123456 ∧
    after (exec (.rdpix 24) (withPixel 24 ⟨0, 0, 0xFF⟩)) (·.rdata) = some 0x000000FF ∧
    after (exec (.rdpix 31) ready) (fun t => (t.rdata, t.errCode)) = some (0, 4) := by decide

/-- The illustrative bitmap 0x42221F: LIT at 2, 7, 11, 19 to 24. -/
theorem test_draw_seven : (List.finRange 25).filter (fun i => (drawGlyph 0x42221F)[i] = Config.lit) =
    [2, 7, 11, 19, 20, 21, 22, 23, 24] := by decide

/-- The illustrative bitmap 0x400004: LIT at 2 and 22, the rest black. -/
theorem test_draw_one : (List.finRange 25).filter (fun i => (drawGlyph 0x400004)[i] ≠ ⟨0, 0, 0⟩) = [2, 22] := by decide

theorem test_render_bad_digit : after (exec (.render 10) (withPixel 3 ⟨5, 5, 5⟩)) (fun t => (t.pb[3], t.errCode)) =
    some (⟨5, 5, 5⟩, 3) := by decide

theorem test_start : after (exec .start ready) (fun t => (t.txState, t.txIdx, t.status)) = some (.drain, 0, 0x00000809) := by
  decide

/-- The first code is kept (P4). -/
theorem test_error_status : (ready.raiseError .illegalOpcode).status = 0x00000868 ∧
    ((ready.raiseError .illegalOpcode).raiseError .badCoord).status = 0x00000868 ∧
    (ready.raiseError .badCoord).status = 0x000008A8 ∧ (ready.raiseError .badDigit).status = 0x000008E8 ∧
    (ready.raiseError .badIndex).status = 0x00000928 := by decide

/-! ### Transmitter (L2.4, L2.5) -/

theorem test_init_banks : ready.status = 0x00000808 ∧ (acquireChannel true false State.reset).status = 0x00000808 ∧
    (acquireChannel false true State.reset).status = 0x00000818 ∧ fatalState.status = 0x00000804 := by decide

theorem test_pixel_words : pixelWord Config.lit = 0x002800 ∧ pixelWord ⟨0x12, 0x34, 0x56⟩ = 0x341256 ∧
    pixelWord ⟨0, 0, 0xFF⟩ = 0x0000FF ∧ pixelWord ⟨0, 0xFF, 0⟩ = 0xFF0000 := by decide

/-- 0011 0100 0001 0010 0101 0110. -/
theorem test_wire_bits : wireBits (pixelWord ⟨0x12, 0x34, 0x56⟩) =
    [false, false, true, true, false, true, false, false, false, false, false, true,
     false, false, true, false, false, true, false, true, false, true, true, false] := by decide

theorem test_held_before_init : enabled .host { State.reset with cmdQ := [0x00000000] } = false ∧
    enabled .host { lastBitState with cmdQ := [0x00000000] } = false := by decide

theorem test_hold_holds_start_only : enabled .host { holdState with cmdQ := [0x50000000] } = false ∧
    enabled .host { holdState with cmdQ := [0x40000007] } = true := by decide

/-- TXD from TX_IDX = 3. -/
theorem test_txd : after (.next (txdStep { withPixel 3 ⟨0x12, 0x34, 0x56⟩ with txState := .drain, txIdx := 3 }))
    (fun t => (t.fifo, t.txIdx)) = some ([0x341256], 4) := by decide

theorem test_txs_load : after (stepEvent .txs { ready with txState := .drain, txIdx := 1, fifo := [0x002800] })
    (fun t => (t.fifo, t.shreg, t.shcnt)) = some ([], 0x002800, 24) := by decide

theorem test_txs_bit : after (stepEvent .txs { ready with txState := .drain, shreg := 0x002800, shcnt := 14 })
    (fun t => (t.ledLog, t.shcnt)) = some ([.bit true], 13) := by decide

theorem test_txs_last_bit : after (stepEvent .txs lastBitState) (fun t => (t.ledLog, t.txState, t.settleCnt)) =
      some ([.bit false], .settle, 100) ∧
    after (stepEvent .txs { lastBitState with txIdx := 24 }) (·.txState) = some .drain := by decide

theorem test_hold_end : after (stepEvent .tick { holdState with settleCnt := 1 }) (fun t => (t.txState, t.ledLog)) =
      some (.idle, [.bit false, .latch]) ∧
    after (stepEvent .tick { holdState with settleCnt := 2 }) (fun t => (t.txState, t.settleCnt)) = some (.settle, 1) := by
  decide

/-! ### Time base and debounce (L2.6, L2.7) -/

theorem test_tick_vectors :
    after (stepEvent .tick { ready with usPresc := 998, nowMs := 5 }) (fun t => (t.usPresc, t.nowMs)) = some (999, 5) ∧
    after (stepEvent .tick { ready with usPresc := 999, nowMs := 7 }) (fun t => (t.usPresc, t.nowMs)) = some (0, 8) ∧
    after (stepEvent .tick { fatalState with usPresc := 999, nowMs := 0xFFFFFFFF }) (fun t => (t.usPresc, t.nowMs)) =
      some (0, 0) := by decide

theorem test_deb_no_edge : debOut 1400 ⟨1000, true, true⟩ true = some (⟨1000, true, true⟩, []) ∧
    debOut 1400 ⟨1000, true, false⟩ false = some (⟨1000, true, false⟩, []) ∧
    debOut 1400 ⟨1000, true, false⟩ true = some (⟨1000, true, true⟩, []) := by decide

theorem test_deb_boundary : debOut 399 ⟨0, false, true⟩ false = some (⟨0, false, false⟩, []) ∧
    debOut 400 ⟨0, false, true⟩ false = some (⟨400, true, false⟩, [⟨.b0, true⟩]) ∧
    debOut 1399 ⟨1000, true, true⟩ false = some (⟨1000, true, false⟩, []) ∧
    debOut 1400 ⟨1000, true, true⟩ false = some (⟨1400, false, false⟩, [⟨.b0, false⟩]) := by decide

theorem test_deb_wrap : debOut 0x00000090 ⟨0xFFFFFF00, false, true⟩ false = some (⟨0x00000090, true, false⟩, [⟨.b0, true⟩]) ∧
    debOut 0x0000008F ⟨0xFFFFFF00, false, true⟩ false = some (⟨0xFFFFFF00, false, false⟩, []) ∧
    debOut 5 ⟨4294967200, false, true⟩ false = some (⟨4294967200, false, false⟩, []) := by decide

theorem test_deb_independent : after (stepEvent (.deb .b1)
    { ready with nowMs := 1100, btn1 := false, deb0 := ⟨1000, true, false⟩ }) (fun t => (t.deb1.lastTs, t.deb0.lastTs, t.evt)) =
      some (1100, 1000, [⟨.b1, true⟩]) := by decide

/-! ### Assembler (30_encoding.md R76, R77) -/

theorem test_assemble_line : assembleLine "setcolor 0x12, 0x34, 0x56   ; comment".toList = some [0x20123456] := by decide
theorem test_assemble_case : assembleLine "  SetXY 2, 3".toList = some [0x30000032] := by decide
theorem test_assemble_pseudo : assembleLine "show 3".toList = some [0x40000003, 0x50000000] := by decide
theorem test_assemble_out_of_range : assembleLine "rdpix 32".toList = none := by decide
theorem test_assemble_unknown : assembleLine "halt".toList = none ∧ assembleLine "; nothing".toList = some [] := by decide

/-! ### Witnesses: for every obligation with hypotheses, a concrete input that meets them (each clause at its boundary) -/

/-- Every opcode, at the lowest and the highest word that has it. -/
theorem witness_opcodes : (0x00000000#32).toNat / 2 ^ 28 = 0 ∧ (0x0FFFFFFF#32).toNat / 2 ^ 28 = 0 ∧
    (0x10000000#32).toNat / 2 ^ 28 = 1 ∧ (0x2FFFFFFF#32).toNat / 2 ^ 28 = 2 ∧ (0x30000000#32).toNat / 2 ^ 28 = 3 ∧
    (0x4FFFFFFF#32).toNat / 2 ^ 28 = 4 ∧ (0x50000000#32).toNat / 2 ^ 28 = 5 ∧ (0x6FFFFFFF#32).toNat / 2 ^ 28 = 6 ∧
    (0x70000000#32).toNat / 2 ^ 28 = 7 ∧ 8 ≤ (0x80000000#32).toNat / 2 ^ 28 ∧ 8 ≤ (0xFFFFFFFF#32).toNat / 2 ^ 28 := by decide

theorem witness_DecodeInvertsEncode : (Instr.setxy 7 7).wellFormed = true ∧ (Instr.reserved 8).wellFormed = true ∧
    (Instr.reserved 15).wellFormed = true := by decide

theorem witness_DecodeFollowsOpcode : (0x80000000#32).toNat / 2 ^ 28 = 8 ∧ (0x7FFFFFFF#32).toNat / 2 ^ 28 = 7 := by decide

theorem witness_ReservedBitsIgnored : ready.cmdReady 0x3FFFFF8C = true ∧ (Instr.rdpix 31).wellFormed = true := by decide

theorem witness_WordSelectsOneRow : (⟨"RESERVED", 0x80000000, 0x80000000⟩ : OpcodeRow) ∈ opcodeMap ∧
    0xF0000000#32 &&& 0x80000000#32 = 0x80000000#32 := by decide

theorem witness_PseudoInstructionsExpand : (AsmStatement.showDigit 15).words = some [0x4000000F, 0x50000000] ∧
    (AsmStatement.plot 7 7 255 255 255).words = some [0x20FFFFFF, 0x30000077] ∧
    (AsmStatement.lit 7 0).words = some [0x20280000, 0x30000007] ∧ (AsmStatement.render 16).words = none ∧
    (AsmStatement.map 0 8).words = none ∧ (AsmStatement.setcolor 0 256 0).words = none ∧
    (AsmStatement.showDigit 16).words = none ∧ (AsmStatement.plot 8 0 0 0 0).words = none ∧
    (AsmStatement.plot 0 0 256 0 0).words = none ∧ (AsmStatement.lit 0 8).words = none := by decide

/-- A word on the port of a block that is ready, and HOST to step. -/
theorem witness_StepRunsDecodedCommand :
    ({ ready with script := [.host], cmdQ := [0x60000014] } : State).script = [.host] ∧
    ({ ready with script := [.host], cmdQ := [0x60000014] } : State).cmdQ = [0x60000014] ∧
    decode 0x60000014 = .map 4 1 ∧ ready.cmdReady 0x60000014 = true ∧ State.reset.script = [] := by decide

theorem witness_HostHeldUntilReady : ({ ready with cmdQ := [0x00000000] } : State).cmdQ = [0x00000000] ∧
    enabled .host State.reset = false ∧ after (stepEvent .host State.reset) (·.cmdQ) = some [] ∧
    enabled .host { holdState with cmdQ := [0x5FFFFFFF] } = false ∧
    after (stepEvent .host { holdState with cmdQ := [0x5FFFFFFF] }) (·.cmdQ) = some [0x5FFFFFFF] := by decide

theorem witness_StallsAndTheOneFault : enabled .txd ready = false ∧
    ({ holdState with settleCnt := 0 } : State).txState = .settle ∧
    ({ holdState with settleCnt := 0 } : State).settleCnt.val = 0 := by decide

/-- One step of each of the three kinds: nothing taken, the head taken, a word joining at the end. -/
theorem witness_CommandsTakenInOrder :
    after (stepEvent .tick { ready with cmdQ := [0x00000000] }) (·.cmdQ) = some [0x00000000] ∧
    after (stepEvent .host { ready with cmdQ := [0x00000000, 0x10000000] }) (·.cmdQ) = some [0x10000000] ∧
    after (stepEvent (.present 0x50000000) { ready with cmdQ := [0x00000000] }) (·.cmdQ) = some [0x00000000, 0x50000000] := by
  decide

theorem witness_ScheduleRunsInOrder :
    ({ ready with script := [.tick, .host, .txd] } : State).script = [.tick, .host] ++ [.txd] := by decide

theorem witness_NopChangesNothing : (0x0ABCDEF0#32).toNat / 2 ^ 28 = 0 ∧ lastBitState.txState = .drain := by decide

theorem witness_ClearBlackensBuffer : (0x1FFFFFFF#32).toNat / 2 ^ 28 = 1 ∧ (24#5).toNat < 25 ∧ (0#5).toNat < 25 := by decide

theorem witness_SetcolorLoadsColor : (0x20123456#32).toNat / 2 ^ 28 = 2 := by decide

theorem witness_SetxyWritesMappedPixel : (0x30000044#32).toNat / 2 ^ 28 = 3 ∧ (4#3).toNat < 5 ∧ (0#3).toNat < 5 ∧
    (5 ≤ (5#3).toNat ∨ 5 ≤ (0#3).toNat) ∧ (5 ≤ (4#3).toNat ∨ 5 ≤ (5#3).toNat) ∧ (5 ≤ (7#3).toNat ∨ 5 ≤ (7#3).toNat) := by decide

theorem witness_MapLoadsIndex : (0x60000044#32).toNat / 2 ^ 28 = 6 ∧ (4#3).toNat < 5 ∧
    (5 ≤ (5#3).toNat ∨ 5 ≤ (4#3).toNat) ∧ (5 ≤ (0#3).toNat ∨ 5 ≤ (7#3).toNat) := by decide

theorem witness_RdpixLoadsPixel : (0x70000018#32).toNat / 2 ^ 28 = 7 ∧ (24#5).toNat < 25 ∧ 25 ≤ (25#5).toNat ∧
    25 ≤ (31#5).toNat := by decide

theorem witness_RenderDrawsGlyph : (0x40000009#32).toNat / 2 ^ 28 = 4 ∧ (9#4).toNat < 10 ∧ 10 ≤ (10#4).toNat ∧
    10 ≤ (15#4).toNat := by decide

theorem witness_RenderedLitSet : (9#4).toNat < 10 ∧ ∃ t, exec (.render 9) ready = .next t := ⟨by decide, _, rfl⟩

theorem witness_StartBeginsFrame : (0x50000000#32).toNat / 2 ^ 28 = 5 ∧
    ({ holdState with cmdQ := [0x50000000] } : State).cmdQ = [0x50000000] ∧ holdState.txState ≠ .idle ∧
    after (stepEvent .host { holdState with cmdQ := [0x50000000] }) (·.txState) = some .settle ∧
    after (stepEvent .host { lastBitState with cmdQ := [0x50000000] }) (·.txState) = some .drain := by decide

theorem witness_ReservedRaisesIllegalOpcode : (0x80000000#32).getLsbD 31 = true ∧ (0xFFFFFFFF#32).getLsbD 31 = true := by decide

theorem witness_RaiseErrorKeepsFirstCode : ready.errCode = 0 ∧ (ready.raiseError .badIndex).errCode ≠ 0 ∧
    ({ ready with cmdQ := [0x4000000A] } : State).cmdQ = [0x4000000A] ∧ ready.cmdReady 0x4000000A = true ∧
    errorCause (decode 0x4000000A) = some .badDigit := by decide

theorem witness_OnlyListedErrorsRecorded : errorCause (.setxy 5 0) = some .badCoord ∧ errorCause (.map 0 5) = some .badCoord ∧
    errorCause (.render 10) = some .badDigit ∧ errorCause (.rdpix 25) = some .badIndex ∧
    errorCause (.reserved 8) = some .illegalOpcode ∧ errorCause (.setxy 4 4) = none ∧ errorCause (.rdpix 24) = none ∧
    after (stepEvent .tick ready) (·.err) = some false := by decide

theorem witness_ErrorsStickUntilReset : (ready.raiseError .badCoord).err = true ∧ (ready.raiseError .badCoord).errCode ≠ 0 ∧
    after (stepEvent .host { ready with cmdQ := [0x80000000] }) (·.errCode) = some 1 := by decide

theorem witness_CommandsAreIdempotent : Instr.rdpix 31 ≠ .start := by decide

theorem witness_OnlyStartBeginsFrame : Instr.render 3 ≠ .start ∧
    after (stepEvent .host { ready with cmdQ := [0x50000000] }) (·.txState) = some .drain ∧
    after (stepEvent .tick lastBitState) (·.txState) = some .drain := by decide

theorem witness_ResetGivesResetValues : State.reset.hardReset = State.reset := by decide

theorem witness_AgentsEnabledAfterReset : (∃ t, stepEvent .reset lastBitState = .next t) ∧ State.reset.initDone = false ∧
    fatalState.fatal = true ∧ ready.initDone = true ∧ (∃ t, stepEvent .init State.reset = .next t) :=
  ⟨⟨_, rfl⟩, rfl, rfl, rfl, _, rfl⟩

theorem witness_InitAcquiresChannel : State.reset.initDone = false ∧ ready.initDone = true := by decide

/-- An empty queue never is full; a queue of FIFO_DEPTH words is. -/
theorem witness_TxdPushesNextPixel : enabled .txd { ready with txState := .drain, txIdx := 24 } = true ∧
    ({ ready with txState := .drain, txIdx := 24 } : State).txIdx.val < 25 ∧
    (List.replicate Config.fifoDepth (0 : PixelWord)).length = Config.fifoDepth :=
  ⟨(txdEnabled_iff _).mpr ⟨rfl, rfl, by decide, Nat.succ_pos _⟩, by decide, List.length_replicate⟩

theorem witness_TxsLoadsHead : ({ ready with txState := .drain, fifo := [0x002800] } : State).loadEnabled = true ∧
    ({ ready with txState := .drain, fifo := [0x002800] } : State).fifo = 0x002800 :: [] := by decide

theorem witness_SettleHoldCountsTicks : holdState.txState = .settle ∧ tickCount [.txd, .tick] < holdState.settleCnt.val ∧
    (∀ e ∈ [Event.txd, .tick], e ≠ .reset) ∧ tickCount [.tick] + 1 = ({ holdState with settleCnt := 2 } : State).settleCnt.val ∧
    tickCount [] + 1 = ({ holdState with settleCnt := 1 } : State).settleCnt.val ∧
    after (stepEvent .tick holdState) (·.settleCnt) = some 99 ∧ after (stepEvent .tick ready) (·.txState) = some .idle ∧
    after (stepEvent .txs lastBitState) (·.txState) = some .settle := by decide

theorem witness_LineActiveOnlyInFrame : after (stepEvent .txs lastBitState) (·.ledLog) = some [.bit false] ∧
    after (stepEvent .tick { holdState with settleCnt := 1 }) (·.ledLog) = some [.bit false, .latch] ∧
    after (stepEvent .tick holdState) (·.ledLog) = some [.bit false] := by decide

theorem witness_PendingFrameConserved : after (stepEvent .txs lastBitState) (fun t => t.ledLog ++ pendingEvents t) =
      some (lastBitState.ledLog ++ pendingEvents lastBitState) ∧
    after (stepEvent .host { ready with cmdQ := [0x10000000] }) (·.txState) = some .idle ∧ decode 0x10000000 ≠ .start := by decide

theorem witness_OneFrameInFlight : after (stepEvent .tick { holdState with settleCnt := 1 }) (·.txState) = some .idle ∧
    holdState.txState ≠ .idle ∧ ({ holdState with cmdQ := [0x50000000] } : State).cmdWord = some 0x50000000 ∧
    decode 0x50000000 = .start := by decide

theorem witness_TransmitterOnlyReadsBuffer : (∃ t, stepEvent .txd { ready with txState := .drain } = .next t) ∧
    (∃ t, stepEvent .txs lastBitState = .next t) ∧ ∃ t, stepEvent .tick holdState = .next t := by
  refine ⟨stepEvent_goes_on _ _ (by simp), stepEvent_goes_on _ _ (by simp), stepEvent_goes_on _ _ fun _ _ => by decide⟩

theorem witness_BufferStableWhileDraining : lastBitState.txState = .drain ∧
    after (stepEvent .host { lastBitState with cmdQ := [0x10000000] }) (·.cmdQ) = some [0x10000000] := by decide

theorem witness_TickAdvancesTimeBase : ready.txState ≠ .settle ∧ 0 < ({ holdState with settleCnt := 1 } : State).settleCnt.val ∧
    ready.usPresc = 0 ∧ ready.nowMs = 0 ∧ after (runEvents [.tick, .txd, .tick] ready) (·.usPresc) = some 2 := by decide

theorem witness_DebounceSample : ready.initDone = true ∧ ready.fatal = false ∧
    ¬((ready.deb .b0).prev = true ∧ ready.btn .b0 = false) ∧
    ((debAt 400 ⟨0, false, true⟩ false).deb .b0).prev = true ∧ (debAt 400 ⟨0, false, true⟩ false).btn .b0 = false ∧
    400 ≤ (400#32 - 0#32).toNat ∧ (399#32 - 0#32).toNat < 400 := by decide

/-- An accepted edge at 400, then `n` = 400000 ticks, the other line moving, and another sample of the line still down, with the
window past: nothing is recorded. -/
theorem witness_held (n : Nat) : ∃ s t u : State, ∃ es : List Event, s.initDone = true ∧ s.fatal = false ∧
    stepEvent (.deb .b0) s = .next t ∧ t.evt = [⟨.b0, true⟩] ∧ (∀ e ∈ es, e ≠ .reset ∧ ∀ level, e ≠ .button .b0 level) ∧
    n ≤ tickCount es ∧ Event.deb .b0 ∈ es ∧ runEvents es t = .next u := by
  obtain ⟨v, hv, hf, -, -⟩ := runEvents_ticks n (debStep .b0 (debAt 400 ⟨0, false, true⟩ false)) (by decide)
  refine ⟨debAt 400 ⟨0, false, true⟩ false, _, debStep .b0 (v.setBtn .b1 false),
    List.replicate n .tick ++ [.button .b1 false, .deb .b0], rfl, rfl, rfl, by decide, ?_, ?_, by simp, ?_⟩
  · intro e he
    simp only [List.mem_cons, List.mem_append, List.mem_replicate, List.not_mem_nil, or_false] at he
    rcases he with ⟨-, rfl⟩ | rfl | rfl <;> simp
  · simp [tickCount]
  · rw [runEvents_append hv]
    have hr : (v.setBtn .b1 false).running = true := by
      rw [hf]
      rfl
    simp only [runEvents, stepEvent_of_enabled (show enabled (.button .b1 false) v = true from rfl), fire,
      stepEvent_of_enabled (show enabled (.deb .b0) (v.setBtn .b1 false) = true from hr)]

theorem witness_HeldLineYieldsOneEdge : ∃ s t u : State, ∃ es : List Event, s.initDone = true ∧ s.fatal = false ∧
    stepEvent (.deb .b0) s = .next t ∧ t.evt = [⟨.b0, true⟩] ∧ (∀ e ∈ es, e ≠ .reset ∧ ∀ level, e ≠ .button .b0 level) ∧
    400000 ≤ tickCount es ∧ Event.deb .b0 ∈ es ∧ runEvents es t = .next u := witness_held 400000

theorem witness_WindowBoundaryInclusive : 400 ≤ (400#32).toNat ∧ 400 ≤ (0xFFFFFFFF#32).toNat := by decide

theorem witness_ButtonsAreIndependent : Button.b1 ≠ .b0 := by decide

theorem witness_DebounceNeverTouchesMatrix : after (stepEvent (.deb .b1) ready) (·.evt) = some [] ∧ Button.b0 ≠ .b1 := by decide

theorem witness_TogglesFollowAcceptedEdges : (∀ e ∈ [Event.deb .b0, .tick], e ≠ .reset) ∧
    after (runEvents [.deb .b0, .tick] (debAt 400 ⟨0, false, true⟩ false)) (fun t => (notifiedValues .b0 t.evt, t.deb0.tog)) =
      some ([true], true) := by decide

/-- Button 0 after an accepted edge at 1000, the line up again and sampled. -/
def released : State := { ready with nowMs := 1000, deb0 := ⟨1000, true, true⟩, evt := [⟨.b0, true⟩] }

/-- Two accepted edges of button 0, at 1000 and at 1400: between them the line goes up, is sampled, `n` = 400000 ticks pass, and
the line falls. -/
theorem witness_edges (n : Nat) (h : BitVec.ofNat 32 (n / 1000) = 400) : ∃ s s1 s2 t : State, ∃ es : List Event,
    stepEvent (.deb .b0) s = .next s1 ∧ AcceptedEdge .b0 s s1 ∧ (∀ e ∈ es, e ≠ .reset) ∧ runEvents es s1 = .next s2 ∧
    stepEvent (.deb .b0) s2 = .next t ∧ AcceptedEdge .b0 s2 t := by
  obtain ⟨v, hv, hf, -, hm⟩ := runEvents_ticks n released (by decide)
  have hn : v.nowMs = 1400 := by
    rw [hm, show (released.usPresc.val + n) = n from Nat.zero_add n, h]
    rfl
  have hd : v.deb0 = ⟨1000, true, true⟩ := by
    rw [hf]
    rfl
  refine ⟨debAt 1000 ⟨0, false, true⟩ false, _, v.setBtn .b0 false, debStep .b0 (v.setBtn .b0 false),
    [.button .b0 true, .deb .b0] ++ (List.replicate n .tick ++ [.button .b0 false]), rfl, ⟨true, rfl⟩, ?_, ?_, ?_, ?_⟩
  · intro e he
    simp only [List.mem_cons, List.mem_append, List.mem_replicate, List.not_mem_nil, or_false] at he
    rcases he with (rfl | rfl) | ⟨-, rfl⟩ | rfl <;> decide
  · rw [runEvents_append (t := released) (by rfl), runEvents_append hv]
    rfl
  · refine stepEvent_of_enabled ?_
    rw [hf]
    rfl
  · refine ⟨false, ?_⟩
    have hb : v.deb .b0 = ⟨1000, true, true⟩ := hd
    simp [debStep, DebUnit.accepts, DebUnit.sample, fallingEdge, windowPassed, elapsedMs, Config.windowMs, hn, hb]

theorem witness_AcceptedEdgesAreSpaced : ∃ s s1 s2 t : State, ∃ es : List Event,
    stepEvent (.deb .b0) s = .next s1 ∧ AcceptedEdge .b0 s s1 ∧ (∀ e ∈ es, e ≠ .reset) ∧ runEvents es s1 = .next s2 ∧
    stepEvent (.deb .b0) s2 = .next t ∧ AcceptedEdge .b0 s2 t := witness_edges 400000 (by decide)

/-! ### Witnesses for the invariant -/

/-- A block that runs and has done nothing meets the invariant. -/
theorem blockInv_ready : BlockInv ready where
  mapIdx_lt := by decide
  rdata_lt := by decide
  err_iff := by decide
  errCode_le := by decide
  fifo_le := Nat.zero_le _
  quiet := by decide
  idle_idx := by decide
  settle_cnt := by decide
  drain_work := by decide
  drain_queue := fun h => by cases h
  chOk_iff := by decide
  fatal_init := by decide
  bank_zero := by decide
  dormant := fun h => by cases h
  toggles := by intro b; cases b <;> decide

theorem blockInv_lastBit : BlockInv lastBitState where
  mapIdx_lt := by decide
  rdata_lt := by decide
  err_iff := by decide
  errCode_le := by decide
  fifo_le := Nat.zero_le _
  quiet := by decide
  idle_idx := by decide
  settle_cnt := by decide
  drain_work := by decide
  drain_queue := fun _ => ⟨25, by decide, by decide, by decide⟩
  chOk_iff := by decide
  fatal_init := by decide
  bank_zero := by decide
  dormant := fun h => by cases h
  toggles := by intro b; cases b <;> decide

theorem blockInv_hold : BlockInv holdState where
  mapIdx_lt := by decide
  rdata_lt := by decide
  err_iff := by decide
  errCode_le := by decide
  fifo_le := Nat.zero_le _
  quiet := by decide
  idle_idx := by decide
  settle_cnt := by decide
  drain_work := by decide
  drain_queue := fun h => by cases h
  chOk_iff := by decide
  fatal_init := by decide
  bank_zero := by decide
  dormant := fun h => by cases h
  toggles := by intro b; cases b <;> decide

theorem blockInv_fatal : BlockInv fatalState where
  mapIdx_lt := by decide
  rdata_lt := by decide
  err_iff := by decide
  errCode_le := by decide
  fifo_le := Nat.zero_le _
  quiet := by decide
  idle_idx := by decide
  settle_cnt := by decide
  drain_work := by decide
  drain_queue := fun h => by cases h
  chOk_iff := by decide
  fatal_init := by decide
  bank_zero := by decide
  dormant := fun _ => by rw [Dormant]; decide
  toggles := by intro b; cases b <;> decide

theorem witness_TxsSendsBit : lastBitState.bitEnabled = true ∧
    ({ ready with txState := .drain, shcnt := 24 } : State).bitEnabled = true ∧ BlockInv lastBitState ∧
    after (stepEvent .txs lastBitState) (·.txState) = some .settle :=
  ⟨by decide, by decide, blockInv_lastBit, by decide⟩

/-- A run that stays in its frame, evaluated. -/
def inFrameRun : List Event → State → Option State
  | [], s => some s
  | e :: es, s =>
    if s.txState = .idle ∨ e = .reset then none
    else
      match stepEvent e s with
      | .next t => inFrameRun es t
      | .fault _ => none
      | .refused _ => none

theorem inFrameRun_sound : ∀ {es : List Event} {s t : State}, inFrameRun es s = some t → InFrame es s ∧ runEvents es s = .next t
  | [], s, t, h => by
    injection h with h
    subst h
    exact ⟨trivial, rfl⟩
  | e :: es, s, t, h => by
    simp only [inFrameRun] at h
    split at h
    · cases h
    · rename_i hn
      push Not at hn
      cases hs : stepEvent e s with
      | next u =>
        simp only [hs] at h
        obtain ⟨h1, h2⟩ := inFrameRun_sound h
        refine ⟨⟨hn.1, hn.2, fun v hv => ?_⟩, by simp only [runEvents, hs]; exact h2⟩
        rw [hs] at hv
        injection hv with hv
        subst hv
        exact h1
      | fault => simp [hs] at h
      | refused => simp [hs] at h

/-- One frame: each pixel pushed, loaded and sent, then the hold. -/
def frameSchedule : List Event :=
  (List.replicate 25 (.txd :: List.replicate 25 .txs)).flatten ++ List.replicate 100 .tick

theorem witness_FrameLaw : BlockInv ready ∧ ready.txState = .idle ∧ ∃ s1 t, exec .start ready = .next s1 ∧
    InFrame frameSchedule s1 ∧ runEvents frameSchedule s1 = .next t ∧ t.txState = .idle := by
  have h : (inFrameRun frameSchedule { ready with txState := .drain, txIdx := 0 }).map (·.txState) = some .idle := by
    decide +kernel
  obtain ⟨t, ht, hi⟩ := Option.map_eq_some_iff.mp h
  obtain ⟨h1, h2⟩ := inFrameRun_sound ht
  exact ⟨blockInv_ready, rfl, _, t, rfl, h1, h2, hi⟩

/-- TMR, TXD and TXS in turn, for ever. -/
def fairEvents (n : Nat) : Event := if n % 3 = 0 then .tick else if n % 3 = 1 then .txd else .txs

/-- The states of that run from a state. -/
def fairStates (s : State) : Nat → State
  | 0 => s
  | n + 1 =>
    match stepEvent (fairEvents n) (fairStates s n) with
    | .next t => t
    | .fault _ => fairStates s n
    | .refused _ => fairStates s n

theorem fairEvents_ne_reset (n : Nat) : fairEvents n ≠ .reset := by
  unfold fairEvents
  split
  · decide
  · split <;> decide

theorem fairRun_fair (s : State) (h : s.txState = .settle → 0 < s.settleCnt.val) : FairRun fairEvents (fairStates s) where
  run := by
    have hold : ∀ n, stepEvent (fairEvents n) (fairStates s n) = .next (fairStates s (n + 1)) ∧
        ((fairStates s n).txState = .settle → 0 < (fairStates s n).settleCnt.val) := by
      have go : ∀ n, ((fairStates s n).txState = .settle → 0 < (fairStates s n).settleCnt.val) →
          stepEvent (fairEvents n) (fairStates s n) = .next (fairStates s (n + 1)) := fun n hn => by
        obtain ⟨t, ht⟩ := stepEvent_goes_on (fairEvents n) (fairStates s n) fun _ => hn
        rw [fairStates, ht]
      intro n
      induction n with
      | zero => exact ⟨go 0 h, h⟩
      | succ n ih =>
        have hn := moves_hold (moves_of_stepEvent ih.1) ih.2
        exact ⟨go (n + 1) hn, hn⟩
    exact endlessRun_of_events fun n => (hold n).1
  tmr := weaklyFair_of_recurs fun n => ⟨3 * n, by omega, by simp [fairEvents]⟩
  txd := weaklyFair_of_recurs fun n => ⟨3 * n + 1, by omega, by simp [fairEvents, Nat.add_mod]⟩
  txs := weaklyFair_of_recurs fun n => ⟨3 * n + 2, by omega, by simp [fairEvents, Nat.add_mod]⟩

theorem witness_FrameMakesProgress : BlockInv lastBitState ∧ lastBitState.txState ≠ .idle ∧ BlockInv holdState ∧
    holdState.txState ≠ .idle ∧ after (stepEvent .tick holdState) workLeft = some 99 ∧ workLeft holdState = 100 ∧
    FairRun fairEvents (fairStates lastBitState) ∧ FairRun fairEvents (fairStates holdState) ∧ ∀ n, fairEvents n ≠ .reset :=
  ⟨blockInv_lastBit, by decide, blockInv_hold, by decide, by decide, by decide, fairRun_fair _ (by decide),
    fairRun_fair _ (by decide), fairEvents_ne_reset⟩

theorem witness_FrameCanComplete : BlockInv ready ∧ ready.running = true ∧ ready.txState = .idle ∧
    ∃ s1, exec .start ready = .next s1 := ⟨blockInv_ready, by decide, by decide, _, rfl⟩

theorem witness_ChannelFixedUntilReset : ready.initDone = true ∧ BlockInv fatalState ∧ fatalState.chOk = false ∧
    (∃ t, stepEvent .tick ready = .next t) ∧ ∃ t, stepEvent .tick fatalState = .next t :=
  ⟨rfl, blockInv_fatal, rfl, ⟨_, rfl⟩, _, rfl⟩

theorem witness_FatalUntilReset : BlockInv fatalState ∧ fatalState.fatal = true ∧
    (∃ t, stepEvent .tick fatalState = .next t) ∧ ∃ t, stepEvent .host { fatalState with cmdQ := [0x50000000] } = .next t :=
  ⟨blockInv_fatal, rfl, ⟨_, rfl⟩, _, rfl⟩

/-- The invariant and a step from a state that meets it. -/
theorem witness_InvariantKeptByStep : BlockInv { ready with script := [.tick] } ∧
    ∃ t, step { ready with script := [.tick] } = .next t :=
  ⟨{ blockInv_ready with toggles := blockInv_ready.toggles, dormant := fun h => by cases h }, _, rfl⟩

theorem witness_EveryStepGoesOn : BlockInv holdState := blockInv_hold

end Sys2Proof.Tests
end

section
/-! PROOF. The statements about the scope and the steps of the system: what one step of the machine is (00_scope.md R8, R9), how
a schedule is run, when a step goes on, and how far apart two accepted edges of a button are (R17). -/

namespace Sys2Proof.Proofs.Scope

open Sys2Proof Sys2Proof.Machine

/-! ### The microseconds since the last accepted edge of a button -/

/-- The microseconds the time base shows since the last accepted edge of button b: the elapsed milliseconds, modular, and the
microseconds of the millisecond in progress (43_debounce.md R121, R127). -/
def sinceEdgeUs (b : Button) (s : State) : Nat :=
  1000 * (elapsedMs s.nowMs (s.deb b).lastTs).toNat + s.usPresc.val

/-- An accepted edge needs the whole window behind it (43_debounce.md R126). -/
theorem window_le_sinceEdgeUs_of_accepts {b : Button} {s : State} (h : (s.deb b).accepts s.nowMs (s.btn b) = true) :
    400000 ≤ sinceEdgeUs b s := by
  have hw : 400 ≤ (elapsedMs s.nowMs (s.deb b).lastTs).toNat := by
    simpa [windowPassed] using (Bool.and_eq_true_iff.mp h).2
  unfold sinceEdgeUs
  omega

/-- Inside the window a tick of the time base is one microsecond more: the millisecond counter does not wrap on the way to 400. -/
theorem timeBaseTick_microseconds {s : State} {last : BitVec 32} (h : (elapsedMs s.nowMs last).toNat < 400) :
    1000 * (elapsedMs (timeBaseTick s).nowMs last).toNat + (timeBaseTick s).usPresc.val =
      1000 * (elapsedMs s.nowMs last).toNat + s.usPresc.val + 1 := by
  have hp := s.usPresc.isLt
  rw [timeBaseTick_usPresc, timeBaseTick_nowMs]
  by_cases h999 : s.usPresc.val = 999
  · have hone : (elapsedMs (s.nowMs + 1) last).toNat = (elapsedMs s.nowMs last).toNat + 1 := by
      simp only [elapsedMs] at h ⊢
      bv_omega
    rw [if_pos h999, hone]
    omega
  · rw [if_neg h999]
    omega

/-- Inside the window no edge of b is accepted, so the count since the last one goes up by one with each tick and stands still
otherwise (43_debounce.md R122, R126). -/
theorem moves_sinceEdgeUs {e : Event} {s t : State} {b : Button} (h : Moves e s t) (hne : e ≠ .reset)
    (hin : sinceEdgeUs b s < 400000) : sinceEdgeUs b t = sinceEdgeUs b s + if e = .tick then 1 else 0 := by
  have hlast : (t.deb b).lastTs = (s.deb b).lastTs := by
    rcases moves_deb h hne b with ⟨-, -, hl⟩ | ⟨b', -, ha, -, -, hother⟩
    · exact hl
    · have hb : b ≠ b' := by
        rintro rfl
        exact absurd (window_le_sinceEdgeUs_of_accepts ha) (by omega)
      exact (hother hb).2
  obtain ⟨htick, hstill⟩ := moves_time h hne
  unfold sinceEdgeUs at hin ⊢
  by_cases he : e = .tick
  · obtain ⟨hp, hm⟩ := htick he
    rw [hlast, hp, hm, if_pos he]
    exact timeBaseTick_microseconds (by omega)
  · obtain ⟨hp, hm⟩ := hstill he
    rw [hlast, hp, hm, if_neg he, Nat.add_zero]

/-- Over a run too short to close the window, the count goes up by the ticks of the run. -/
theorem runEvents_sinceEdgeUs {es : List Event} {s t : State} {b : Button} (hes : ∀ e ∈ es, e ≠ .reset)
    (hrun : runEvents es s = .next t) (hin : sinceEdgeUs b s + tickCount es < 400000) :
    sinceEdgeUs b t = sinceEdgeUs b s + tickCount es := by
  induction es generalizing s with
  | nil =>
    injection hrun with hrun
    subst hrun
    rfl
  | cons e es ih =>
    obtain ⟨hne, hrest⟩ := List.forall_mem_cons.mp hes
    obtain ⟨u, hu, hrun'⟩ := runEvents_cons hrun
    rw [tickCount_cons] at hin ⊢
    have hstep := moves_sinceEdgeUs (moves_of_stepEvent hu) hne (b := b) (by omega)
    rw [ih hrest hrun' (by omega), hstep, Nat.add_assoc]

/-- An accepted edge passed the tests of the sample, and the count starts again (43_debounce.md R124, R128). -/
theorem acceptedEdge_deb {b : Button} {s t : State} (h : stepEvent (.deb b) s = .next t) (ha : AcceptedEdge b s t) :
    (s.deb b).accepts s.nowMs (s.btn b) = true ∧ sinceEdgeUs b t = t.usPresc.val := by
  have hm := moves_of_stepEvent h
  have hne : Event.deb b ≠ .reset := by simp
  obtain ⟨v, hv⟩ := ha
  rcases moves_deb hm hne b with ⟨hevt, -, -⟩ | ⟨b', he, hacc, -, hsame, -⟩
  · simp [hevt] at hv
  · obtain rfl : b = b' := by simpa using he
    have hnow : t.nowMs = s.nowMs := ((moves_time hm hne).2 (by simp)).2
    exact ⟨hacc, by simp [sinceEdgeUs, elapsedMs, (hsame rfl).2, hnow]⟩

/-- Settles O60: the count starts at the first edge, goes up by the ticks of the run while the window is open, and has reached
the whole window at the second edge. -/
theorem acceptedEdgesAreSpaced : Obligations.AcceptedEdgesAreSpaced := by
  intro b s s1 s2 t es hfirst hedge1 hes hrun hsecond hedge2
  by_contra hshort
  have hstart : sinceEdgeUs b s1 = s1.usPresc.val := (acceptedEdge_deb hfirst hedge1).2
  have hend : 400000 ≤ sinceEdgeUs b s2 := window_le_sinceEdgeUs_of_accepts (acceptedEdge_deb hsecond hedge2).1
  have hcount : sinceEdgeUs b s2 = sinceEdgeUs b s1 + tickCount es := runEvents_sinceEdgeUs hes hrun (by omega)
  omega

/-! ### One step of the machine: the next event -/

theorem step_of_script_cons {s : State} {e : Event} {es : List Event} (h : s.script = e :: es) :
    step s = stepEvent e { s with script := es } := by
  simp [step, State.nextEvent, h]

theorem step_of_script_nil {s : State} (h : s.script = []) :
    step s = stepEvent (Config.freeEvent s.freeCount) { s with freeCount := s.freeCount + 1 } := by
  simp [step, State.nextEvent, h]

/-- The HOST step on a ready word is its command, run once the word has left the port (10_state.md R43). -/
theorem stepEvent_host_ready {s : State} {w : Word} {rest : List Word} (hq : s.cmdQ = w :: rest)
    (hc : s.cmdReady w = true) : stepEvent .host s = exec (decode w) { s with cmdQ := rest } := by
  rw [stepEvent_of_enabled (by simp [enabled, State.cmdWord, hq, hc])]
  simp [fire, hostStep, hq]

theorem step_host_ready {s : State} {es : List Event} {w : Word} {rest : List Word} (hs : s.script = .host :: es)
    (hq : s.cmdQ = w :: rest) (hc : s.cmdReady w = true) :
    step s = exec (decode w) { s with script := es, cmdQ := rest } := by
  rw [step_of_script_cons hs]
  exact stepEvent_host_ready (s := { s with script := es }) hq hc

/-- A block made ready accepts every word. -/
theorem readyForCommands_cmdReady (s : State) (w : Word) : s.readyForCommands.cmdReady w = true := by
  have hready : s.readyForCommands.running = true ∧ s.readyForCommands.txState = .idle := by
    unfold State.readyForCommands
    split
    · rename_i h
      simpa [State.running] using h
    · exact ⟨rfl, rfl⟩
  exact (cmdReady_iff _ _).mpr (by simp [hready])

theorem step_withFetchWord (s : State) (nbits w : Nat) :
    step (s.withFetchWord nbits w) = exec (decode (tableWord nbits w)) s.readyForCommands :=
  step_host_ready (s := s.withFetchWord nbits w) rfl rfl (readyForCommands_cmdReady s _)

/-- Settles O7, one lemma on `step` or `stepEvent` for each clause. -/
theorem stepRunsDecodedCommand : Obligations.StepRunsDecodedCommand := by
  refine ⟨?_, ?_, step_withFetchWord, fun _ _ _ => step_of_script_cons, fun _ => step_of_script_nil⟩
  · rintro s es w rest _ hs hq rfl hc
    exact step_host_ready hs hq hc
  · rintro s w rest _ hq rfl hc
    exact stepEvent_host_ready hq hc

/-! ### Which steps go on -/

/-- A tick in a hold with nothing left to count is the model's one stop (notes/assumptions/6.md). -/
theorem stepEvent_tick_underflow {s : State} (hs : s.txState = .settle) (hc : s.settleCnt.val = 0) :
    stepEvent .tick s = .fault .settleUnderflow := by
  rw [stepEvent_of_enabled rfl]
  simp [fire, tickStep, settleTick, hs, hc]

/-- Settles O9: either the tick has something to count, or it is the one that underflows. -/
theorem stallsAndTheOneFault : Obligations.StallsAndTheOneFault := by
  refine ⟨fun _ _ => stepEvent_of_disabled, fun e s => ?_, fun _ => stepEvent_tick_underflow⟩
  by_cases hcount : e = .tick → s.txState = .settle → 0 < s.settleCnt.val
  · exact .inl (stepEvent_goes_on e s hcount)
  · push Not at hcount
    obtain ⟨rfl, hs, hc⟩ := hcount
    have hzero : s.settleCnt.val = 0 := by omega
    exact .inr ⟨rfl, hs, hzero, stepEvent_tick_underflow hs hzero⟩

/-- Settles O53: the invariant leaves every hold a tick to come, whatever the next event is. -/
theorem everyStepGoesOn : Obligations.EveryStepGoesOn := by
  refine ⟨fun s hinv => ?_, exec_goes_on⟩
  have hhold : s.txState = .settle → 0 < s.settleCnt.val := fun hs => (hinv.settle_cnt hs).1
  cases hscript : s.script with
  | nil =>
    rw [step_of_script_nil hscript]
    exact stepEvent_goes_on _ _ fun _ => hhold
  | cons e es =>
    rw [step_of_script_cons hscript]
    exact stepEvent_goes_on _ _ fun _ => hhold

/-! ### The schedule is no part of the block -/

/-- The state with another schedule. -/
def withScript (r : List Event) (s : State) : State := { s with script := r }

/-- An answer with another schedule in its next state. -/
def reschedule (r : List Event) : Result → Result
  | .next s => .next (withScript r s)
  | .fault f => .fault f
  | .refused c => .refused c

theorem exec_withScript (i : Instr) (r : List Event) (s : State) :
    exec i (withScript r s) = reschedule r (exec i s) := by
  cases i with
  | setxy x y => simp only [exec, execSetxy]; split <;> rfl
  | map x y => simp only [exec, execMap]; split <;> rfl
  | render d => simp only [exec, execRender]; split <;> rfl
  | rdpix k => simp only [exec, execRdpix]; split <;> rfl
  | _ => rfl

theorem hostStep_withScript (r : List Event) (s : State) :
    hostStep (withScript r s) = reschedule r (hostStep s) := by
  have hq : (withScript r s).cmdQ = s.cmdQ := rfl
  rw [hostStep, hostStep, hq]
  cases s.cmdQ with
  | nil => rfl
  | cons w rest => exact exec_withScript (decode w) r { s with cmdQ := rest }

theorem initStep_withScript (r : List Event) (s : State) : initStep (withScript r s) = withScript r (initStep s) := by
  simp only [initStep, acquireChannel]
  split
  · rfl
  · split <;> rfl

theorem txdStep_withScript (r : List Event) (s : State) : txdStep (withScript r s) = withScript r (txdStep s) := by
  by_cases hi : s.txIdx.val < 25 <;> simp [txdStep, withScript, hi]

theorem loadStep_withScript (r : List Event) (s : State) : loadStep (withScript r s) = withScript r (loadStep s) := by
  cases hf : s.fifo <;> simp [loadStep, withScript, hf]

theorem bitStep_withScript (r : List Event) (s : State) : bitStep (withScript r s) = withScript r (bitStep s) := by
  by_cases hc : 0 < s.shcnt.val
  · rw [bitStep_eq s hc, bitStep_eq (withScript r s) hc, apply_ite (withScript r)]
    rfl
  · simp [bitStep, withScript, hc]

theorem txsStep_withScript (r : List Event) (s : State) : txsStep (withScript r s) = withScript r (txsStep s) := by
  have hb : (withScript r s).bitEnabled = s.bitEnabled := rfl
  rw [txsStep, txsStep, hb, bitStep_withScript, loadStep_withScript, apply_ite (withScript r)]

theorem timeBaseTick_withScript (r : List Event) (s : State) :
    timeBaseTick (withScript r s) = withScript r (timeBaseTick s) := by
  by_cases hp : s.usPresc.val + 1 < 1000 <;> simp [timeBaseTick, withScript, hp]

theorem settleTick_withScript (r : List Event) (s : State) :
    settleTick (withScript r s) = reschedule r (settleTick s) := by
  by_cases hs : s.txState = .settle
  · by_cases hc : 0 < s.settleCnt.val
    · by_cases h1 : s.settleCnt = 1 <;> simp [settleTick, withScript, reschedule, State.emitLed, hs, hc, h1]
    · simp [settleTick, withScript, reschedule, hs, hc]
  · simp [settleTick, withScript, reschedule, hs]

theorem tickStep_withScript (r : List Event) (s : State) :
    tickStep (withScript r s) = reschedule r (tickStep s) := by
  rw [tickStep, tickStep, timeBaseTick_withScript, settleTick_withScript]

theorem debStep_withScript (b : Button) (r : List Event) (s : State) :
    debStep b (withScript r s) = withScript r (debStep b s) := by
  rw [debStep_eq, debStep_eq]
  cases b <;> rfl

theorem fire_withScript (e : Event) (r : List Event) (s : State) :
    fire e (withScript r s) = reschedule r (fire e s) := by
  cases e with
  | init => exact congrArg Host.Outcome.next (initStep_withScript r s)
  | txd => exact congrArg Host.Outcome.next (txdStep_withScript r s)
  | txs => exact congrArg Host.Outcome.next (txsStep_withScript r s)
  | tick => exact tickStep_withScript r s
  | deb b => exact congrArg Host.Outcome.next (debStep_withScript b r s)
  | host => exact hostStep_withScript r s
  | read _ => rfl
  | present _ => rfl
  | button b _ => cases b <;> rfl
  | reset => rfl

/-- An event neither reads nor changes the schedule (notes/assumptions/1.md). -/
theorem stepEvent_withScript (e : Event) (r : List Event) (s : State) :
    stepEvent e (withScript r s) = reschedule r (stepEvent e s) := by
  have he : enabled e (withScript r s) = enabled e s := enabled_schedule e s r s.freeCount
  rw [stepEvent, stepEvent, he, fire_withScript, apply_ite (reschedule r)]
  rfl

theorem stepEvent_keeps_script {e : Event} {s t : State} (h : stepEvent e s = .next t) : t.script = s.script := by
  have hr : stepEvent e s = reschedule s.script (stepEvent e s) := stepEvent_withScript e s.script s
  rw [h] at hr
  injection hr with hr
  rw [hr]
  rfl

/-! ### The machine's run of a schedule -/

theorem core_run_succ_next {s t : State} (n : Nat) (h : step s = .next t) :
    Host.Core.run core (n + 1) s = Host.Core.run core n t := by
  simp only [Host.Core.run, core, h]

theorem core_run_succ_fault {s : State} {f : Fault} (n : Nat) (h : step s = .fault f) :
    Host.Core.run core (n + 1) s = .fault f := by
  simp only [Host.Core.run, core, h]

/-- Settles O11, by induction on the events: the first is taken from the schedule and happens as it would with any other
schedule, and it leaves the schedule of the others. -/
theorem scheduleRunsInOrder : Obligations.ScheduleRunsInOrder := by
  intro es rest s hscript
  induction es generalizing s with
  | nil =>
    obtain rfl : s.script = rest := hscript
    rfl
  | cons e es ih =>
    have hstep : step s = reschedule (es ++ rest) (stepEvent e (withScript rest s)) :=
      (step_of_script_cons hscript).trans (stepEvent_withScript e (es ++ rest) (withScript rest s))
    change Host.Core.run core (es.length + 1) s = runEvents (e :: es) (withScript rest s)
    cases hfirst : stepEvent e (withScript rest s) with
    | next u =>
      obtain rfl : u.script = rest := stepEvent_keeps_script hfirst
      rw [hfirst] at hstep
      rw [core_run_succ_next es.length hstep, ih (withScript (es ++ u.script) u) rfl, runEvents, hfirst]
      rfl
    | fault f =>
      rw [hfirst] at hstep
      rw [core_run_succ_fault es.length hstep, runEvents, hfirst]
      rfl
    | refused c => exact absurd hfirst (stepEvent_not_refused e _ c)

end Sys2Proof.Proofs.Scope
end

section
/-! PROOF. The statements about the registers, the host port and the outputs (10_state.md): how long an error stands (R26, R27),
what LEDLOG records (R44), when a presented word is accepted (R43), the fields of STATUS (R41) and what the host reads (R42). -/

namespace Sys2Proof.Proofs.Registers

open Sys2Proof Sys2Proof.Machine

/-! ### The error registers -/

/-- A command leaves ERR and ERR_CODE alone or raises one error (60_exceptions.md R137). -/
theorem exec_error {i : Instr} {s t : State} (h : exec i s = .next t) :
    (t.err = s.err ∧ t.errCode = s.errCode) ∨ ∃ c, t = s.raiseError c := by
  rcases exec_cases i s with ⟨-, hx⟩ | hx | ⟨_, hx⟩ | ⟨_, hx⟩ | ⟨_, hx⟩ | ⟨_, hx⟩ | ⟨c, hx⟩ <;>
    obtain rfl := Host.Outcome.next.inj (hx.symm.trans h)
  iterate 6 exact .inl ⟨rfl, rfl⟩
  exact .inr ⟨c, rfl⟩

/-- A step but reset leaves ERR and ERR_CODE alone, or is a HOST step that raises one error (60_exceptions.md R136, R137). -/
theorem moves_error {e : Event} {s t : State} (h : Moves e s t) (hne : e ≠ .reset) :
    (t.err = s.err ∧ t.errCode = s.errCode) ∨
      (e = .host ∧ ∃ c, t.err = (s.raiseError c).err ∧ t.errCode = (s.raiseError c).errCode) := by
  cases h with
  | reset => exact absurd rfl hne
  | host _ _ hx =>
    rcases exec_error hx with hkept | ⟨c, rfl⟩
    · exact .inl hkept
    · exact .inr ⟨rfl, c, rfl, rfl⟩
  | init => left; rw [initStep_frame]; exact ⟨rfl, rfl⟩
  | tick | tickHold | tickLatch => left; rw [timeBaseTick_frame]; exact ⟨rfl, rfl⟩
  | debQuiet | debAccept | button => left; simp
  | _ => exact .inl ⟨rfl, rfl⟩

/-- Settles O24: the only write to the two registers is that of `State.raiseError`, which sets ERR and keeps a nonzero code. -/
theorem errorsStickUntilReset : Obligations.ErrorsStickUntilReset := by
  intro e s t h hne
  rcases moves_error (moves_of_stepEvent h) hne with ⟨herr, hcode⟩ | ⟨-, c, herr, hcode⟩
  · exact ⟨herr.trans, fun _ => hcode, fun hchanged => absurd hcode hchanged⟩
  · exact ⟨fun _ => herr, fun hfirst => by rw [hcode, raiseError_errCode, if_neg hfirst], fun _ => herr⟩

/-! ### LEDLOG -/

/-- No command sends anything on LED_DOUT (40_mapper_and_buffer.md R90). -/
theorem exec_ledLog {i : Instr} {s t : State} (h : exec i s = .next t) : t.ledLog = s.ledLog := by
  rcases exec_cases i s with ⟨-, hx⟩ | hx | ⟨_, hx⟩ | ⟨_, hx⟩ | ⟨_, hx⟩ | ⟨_, hx⟩ | ⟨_, hx⟩ <;>
    obtain rfl := Host.Outcome.next.inj (hx.symm.trans h) <;> rfl

/-- Settles O40: of the ways an event can take one state to another, only the bit steps of TXS and the tick that latches write
LEDLOG. -/
theorem lineActiveOnlyInFrame : Obligations.LineActiveOnlyInFrame := by
  intro e s t h hne
  cases moves_of_stepEvent h with
  | reset => exact absurd rfl hne
  | bit hr hd | lastBit hr hd =>
    obtain ⟨hinit, hfatal⟩ := (running_iff s).mp hr
    exact .inr (.inl ⟨rfl, hd, hinit, hfatal, _, rfl⟩)
  | tickLatch hs => exact .inr (.inr ⟨rfl, hs, rfl, rfl⟩)
  | host _ _ hx =>
    have hkept := exec_ledLog hx
    exact .inl hkept
  | init => left; rw [initStep_frame]
  | tick | tickHold | debQuiet | debAccept | button => left; simp
  | _ => exact .inl rfl

/-! ### The host port -/

/-- OP = 5 as a field and as a number (30_encoding.md R66). -/
theorem opField_eq_five (w : Word) : opField w = 0x5#4 ↔ w.toNat / 2 ^ 28 = 5 := by
  rw [← BitVec.toNat_inj, opField_toNat]
  rfl

theorem enabled_host_cons {s : State} {w : Word} {rest : List Word} (hq : s.cmdQ = w :: rest) :
    enabled .host s = s.cmdReady w := by
  simp [enabled, State.cmdWord, hq]

/-- Settles O8: CMD_READY by `cmdReady_iff`, and a word that is held stays because the stalled step changes nothing. -/
theorem hostHeldUntilReady : Obligations.HostHeldUntilReady := by
  refine ⟨fun w s => ?_, fun w rest s hq => by rw [enabled_host_cons hq], fun s t hheld h => ?_⟩
  · rw [cmdReady_iff, running_iff, opField_eq_five, and_assoc]
  · rw [stepEvent_of_disabled hheld] at h
    exact congrArg State.cmdQ (Host.Outcome.next.inj h).symm

/-! ### STATUS and the host's reads -/

/-- CH_BANK as the bit STATUS shows (10_state.md R41). -/
theorem bankBit_eq : ∀ k : Fin 2, (BitVec.ofNat 1 k.val).getLsbD 0 = (k == 1) := by decide

/-- The fields of STATUS that are one bit wide (10_state.md R41). -/
theorem status_flags (s : State) :
    s.status.getLsbD 0 = s.busy ∧ s.status.getLsbD 1 = s.settling ∧ s.status.getLsbD 2 = s.fatal ∧
    s.status.getLsbD 3 = s.chOk ∧ s.status.getLsbD 4 = (s.chBank == 1) ∧ s.status.getLsbD 5 = s.err ∧
    s.status.getLsbD 9 = s.deb0.tog ∧ s.status.getLsbD 10 = s.deb1.tog ∧ s.status.getLsbD 11 = s.initDone := by
  simp only [State.status, BitVec.getLsbD_append, Nat.reduceSub, Nat.reduceLT, reduceIte, BitVec.getLsbD_ofBool, bankBit_eq,
    decide_true, Bool.true_and, and_self]

/-- The wider fields of STATUS, the two reserved ones among them (10_state.md R41). -/
theorem status_fields (s : State) :
    s.status.extractLsb' 6 3 = s.errCode ∧ s.status.extractLsb' 12 4 = 0 ∧ s.status.extractLsb' 16 5 = s.mapIdx ∧
    s.status.extractLsb' 21 11 = 0 := by
  simp (disch := decide) only [State.status, BitVec.extractLsb'_append_eq_of_le, Nat.reduceSub,
    BitVec.extractLsb'_append_eq_right, BitVec.extractLsb'_eq_self, BitVec.ofNat_eq_ofNat, and_self]

/-- Settles O28: `status_flags` and `status_fields` in the order of the bits, and STATUS of the one state at reset. -/
theorem statusLayout : Obligations.StatusLayout := by
  refine ⟨fun s => ?_, by decide⟩
  obtain ⟨hbusy, hsettle, hfatal, hok, hbank, herr, htog0, htog1, hinit⟩ := status_flags s
  obtain ⟨hcode, hlow, hidx, hhigh⟩ := status_fields s
  exact ⟨hbusy, hsettle, hfatal, hok, hbank, herr, hcode, htog0, htog1, hinit, hlow, hidx, hhigh⟩

/-- Settles O29: a read is always enabled and its effect is the state itself. -/
theorem readsHaveNoEffect : Obligations.ReadsHaveNoEffect := fun _ =>
  ⟨fun _ => ⟨rfl, stepEvent_of_enabled rfl⟩, rfl, rfl, rfl, rfl⟩

end Sys2Proof.Proofs.Registers
end

section
/-! PROOF. The statements about what is addressed and in what order (20_memory.md): the host's words are taken in order (R61), a
command run again changes nothing more (R59), and a draining frame has the buffer to itself (R61, 70_reset_and_hazards.md R162). -/

namespace Sys2Proof.Proofs.Memory

open Sys2Proof Sys2Proof.Machine

/-! ### The order of the presented words -/

/-- No command reads or moves the words still presented. -/
theorem exec_cmdQ {i : Instr} {s t : State} (h : exec i s = .next t) : t.cmdQ = s.cmdQ := by
  rcases exec_cases i s with ⟨-, hx⟩ | hx | ⟨_, hx⟩ | ⟨_, hx⟩ | ⟨_, hx⟩ | ⟨_, hx⟩ | ⟨_, hx⟩ <;>
    obtain rfl := Host.Outcome.next.inj (hx.symm.trans h) <;> rfl

/-- Settles O10: of the ways an event can take one state to another, only HOST takes the head and only `present` appends. -/
theorem commandsTakenInOrder : Obligations.CommandsTakenInOrder := by
  intro e s t h
  cases moves_of_stepEvent h with
  | @host s w rest t hq hc hx =>
    have hrest : t.cmdQ = rest := exec_cmdQ hx
    exact .inr (.inl ⟨rfl, w, by rw [hrest, hq], hc⟩)
  | present => exact .inr (.inr ⟨_, rfl, rfl⟩)
  | init => left; rw [initStep_frame]
  | tick | tickHold | tickLatch => left; rw [timeBaseTick_frame]
  | debQuiet | debAccept | button => left; simp
  | _ => exact .inl rfl

/-! ### A command run again -/

/-- A pixel written twice with one value is written once (20_memory.md R57). -/
theorem setPixel_twice (pb : Vector Pixel 25) (i : Fin 25) (p : Pixel) :
    setPixel (setPixel pb i p) i p = setPixel pb i p := by
  simp [setPixel]

/-- A command that raises an error, whatever the state, raises nothing more the second time (60_exceptions.md R137). -/
theorem exec_raiseError_twice {i : Instr} {c : ErrorCause} (h : ∀ s, exec i s = .next (s.raiseError c)) (s : State) :
    ∃ t, exec i s = .next t ∧ exec i t = .next t :=
  ⟨s.raiseError c, h s, by rw [h, raiseError_twice]⟩

/-- Settles O25: a legal command writes a value that does not depend on the register it writes, except SETXY, which writes its
pixel over itself; the others raise the error that is recorded already. -/
theorem commandsAreIdempotent : Obligations.CommandsAreIdempotent := by
  intro i s hi
  cases i with
  | start => exact absurd rfl hi
  | nop | clear | setcolor => exact ⟨_, rfl, rfl⟩
  | setxy x y =>
    by_cases h : x.toNat < 5 ∧ y.toNat < 5
    · refine ⟨_, exec_setxy_onGrid x y h.1 h.2 s, ?_⟩
      rw [exec_setxy_onGrid x y h.1 h.2, withPb_pb, withPb_color, setPixel_twice]
      rfl
    · exact exec_raiseError_twice (exec_setxy_offGrid x y (by omega)) s
  | render d =>
    by_cases h : d.toNat < 10
    · exact ⟨_, exec_render_digit d h s, exec_render_digit d h _⟩
    · exact exec_raiseError_twice (exec_render_noDigit d (by omega)) s
  | map x y =>
    by_cases h : x.toNat < 5 ∧ y.toNat < 5
    · exact ⟨_, exec_map_onGrid x y h.1 h.2 s, exec_map_onGrid x y h.1 h.2 _⟩
    · exact exec_raiseError_twice (exec_map_offGrid x y (by omega)) s
  | rdpix k =>
    by_cases h : k.toNat < 25
    · exact ⟨_, exec_rdpix_inRange k h s, exec_rdpix_inRange k h _⟩
    · exact exec_raiseError_twice (exec_rdpix_outOfRange k (by omega)) s
  | reserved op => exact exec_raiseError_twice (fun _ => rfl) s

/-! ### The buffer while a frame drains -/

/-- PB, COLOR, MAP_IDX and RDATA are the commands' registers: no step but HOST and reset writes them (42_transmitter.md R117,
43_debounce.md R135). -/
theorem moves_hostRegisters {e : Event} {s t : State} (h : Moves e s t) (hhost : e ≠ .host) (hreset : e ≠ .reset) :
    t.pb = s.pb ∧ t.color = s.color ∧ t.mapIdx = s.mapIdx ∧ t.rdata = s.rdata := by
  cases h with
  | host => exact absurd rfl hhost
  | reset => exact absurd rfl hreset
  | init => rw [initStep_frame]; exact ⟨rfl, rfl, rfl, rfl⟩
  | tick | tickHold | tickLatch => rw [timeBaseTick_frame]; exact ⟨rfl, rfl, rfl, rfl⟩
  | debQuiet | debAccept | button => simp
  | _ => exact ⟨rfl, rfl, rfl, rfl⟩

/-- While a frame drains no word is ready, so HOST is held (10_state.md R43). -/
theorem moves_host_drain {s t : State} (h : Moves .host s t) (hd : s.txState = .drain) : t = s := by
  cases h with
  | stall => rfl
  | host _ hc _ =>
    obtain ⟨-, hnd, -⟩ := (cmdReady_iff _ _).mp hc
    exact absurd hd hnd

/-- Settles O47: HOST is held, and no other step but reset writes the commands' registers. -/
theorem bufferStableWhileDraining : Obligations.BufferStableWhileDraining := by
  intro e s t hd h hreset
  have hm := moves_of_stepEvent h
  by_cases hhost : e = .host
  · subst hhost
    obtain rfl := moves_host_drain hm hd
    exact ⟨rfl, rfl, rfl, rfl, fun _ => rfl⟩
  · obtain ⟨hpb, hcolor, hidx, hrdata⟩ := moves_hostRegisters hm hhost hreset
    exact ⟨hpb, hcolor, hidx, hrdata, fun he => absurd he hhost⟩

end Sys2Proof.Proofs.Memory
end

section
/-! PROOF. The statements about the encoding of commands (30_encoding.md): the decoder field by field (R74), the encoder and its
round trip (R75), reserved bits (R69), the rows of the opcode map (R68) and the assembler (R76, R77). -/

namespace Sys2Proof.Proofs.Encoding

open Sys2Proof Sys2Proof.Machine Sys2Proof.Laws

/-! ### The decoder, one equation per opcode -/

theorem decode_nop {w : Word} (h : w.toNat / 2 ^ 28 = 0) : decode w = .nop := by
  simp only [decode, opField_toNat, h]

theorem decode_clear {w : Word} (h : w.toNat / 2 ^ 28 = 1) : decode w = .clear := by
  simp only [decode, opField_toNat, h]

theorem decode_setcolor {w : Word} (h : w.toNat / 2 ^ 28 = 2) :
    decode w = .setcolor (w.extractLsb' 16 8) (w.extractLsb' 8 8) (w.extractLsb' 0 8) := by
  simp only [decode, opField_toNat, h]

theorem decode_setxy {w : Word} (h : w.toNat / 2 ^ 28 = 3) : decode w = .setxy (w.extractLsb' 0 3) (w.extractLsb' 4 3) := by
  simp only [decode, opField_toNat, h]

theorem decode_render {w : Word} (h : w.toNat / 2 ^ 28 = 4) : decode w = .render (w.extractLsb' 0 4) := by
  simp only [decode, opField_toNat, h]

theorem decode_start {w : Word} (h : w.toNat / 2 ^ 28 = 5) : decode w = .start := by
  simp only [decode, opField_toNat, h]

theorem decode_map {w : Word} (h : w.toNat / 2 ^ 28 = 6) : decode w = .map (w.extractLsb' 0 3) (w.extractLsb' 4 3) := by
  simp only [decode, opField_toNat, h]

theorem decode_rdpix {w : Word} (h : w.toNat / 2 ^ 28 = 7) : decode w = .rdpix (w.extractLsb' 0 5) := by
  simp only [decode, opField_toNat, h]

theorem decode_reserved {w : Word} (h : 8 ≤ w.toNat / 2 ^ 28) : decode w = .reserved (opField w) := by
  obtain ⟨n, hn⟩ := Nat.exists_eq_add_of_le' h
  rw [decode, opField_toNat, hn]
  rfl

/-- The rows of R74: an opcode is one of the eight assigned ones, or reserved. -/
theorem opcode_cases (n : Nat) : n = 0 ∨ n = 1 ∨ n = 2 ∨ n = 3 ∨ n = 4 ∨ n = 5 ∨ n = 6 ∨ n = 7 ∨ 8 ≤ n := by
  omega

theorem decode_wellFormed (w : Word) : (decode w).wellFormed = true := by
  rcases opcode_cases (w.toNat / 2 ^ 28) with h | h | h | h | h | h | h | h | h
  · rw [decode_nop h]; rfl
  · rw [decode_clear h]; rfl
  · rw [decode_setcolor h]; rfl
  · rw [decode_setxy h]; rfl
  · rw [decode_render h]; rfl
  · rw [decode_start h]; rfl
  · rw [decode_map h]; rfl
  · rw [decode_rdpix h]; rfl
  · rw [decode_reserved h, Instr.wellFormed, opField_toNat]
    exact decide_eq_true h

/-- A field is the word shifted down and cut off. -/
theorem extract_eq_ofNat (w : Word) (lo len : Nat) : w.extractLsb' lo len = BitVec.ofNat len (w.toNat / 2 ^ lo) := by
  rw [← BitVec.toNat_inj, extract_toNat, BitVec.toNat_ofNat]

/-- Settles O2: the equations of the decoder, with each field as a number. -/
theorem decodeFollowsOpcode : Obligations.DecodeFollowsOpcode := by
  intro w
  have hlow (len : Nat) : w.extractLsb' 0 len = BitVec.ofNat len w.toNat := by
    rw [extract_eq_ofNat, pow_zero, Nat.div_one]
  refine ⟨decode_nop, decode_clear, fun h => ?_, fun h => ?_, fun h => ?_, decode_start, fun h => ?_, fun h => ?_, fun h => ?_,
    decode_wellFormed w⟩
  · rw [decode_setcolor h, hlow, extract_eq_ofNat w 16, extract_eq_ofNat w 8]
  · rw [decode_setxy h, hlow, extract_eq_ofNat w 4]
  · rw [decode_render h, hlow]
  · rw [decode_map h, hlow, extract_eq_ofNat w 4]
  · rw [decode_rdpix h, hlow]
  · rw [decode_reserved h, opField, extract_eq_ofNat]

/-! ### The encoder and its round trip -/

/-- Where X and Y stand in format XY of R66, under any opcode. -/
theorem formatXY_fields (op : BitVec 4) (x y : BitVec 3) :
    (op ++ 0#21 ++ y ++ 0#1 ++ x).extractLsb' 0 3 = x ∧ (op ++ 0#21 ++ y ++ 0#1 ++ x).extractLsb' 4 3 = y := by
  simp (disch := decide) only [BitVec.extractLsb'_append_eq_of_le, Nat.reduceSub, BitVec.extractLsb'_append_eq_right, and_self]

/-- The command of an encoding: the opcode on top selects the row (`OpField`), and each field stands where R66 puts it. -/
theorem decode_encode {i : Instr} (hi : i.wellFormed = true) : decode (encode i) = i := by
  cases i with
  | nop => exact decode_nop (OpField.nop rfl)
  | clear => exact decode_clear (OpField.clear rfl)
  | setcolor r g b =>
    rw [decode_setcolor (OpField.setcolor r g b rfl)]
    simp (disch := decide) only [encode, BitVec.extractLsb'_append_eq_of_le, Nat.reduceSub,
      BitVec.extractLsb'_append_eq_right]
  | setxy x y =>
    obtain ⟨hx, hy⟩ := formatXY_fields 0x3 x y
    exact (decode_setxy (OpField.setxy x y rfl)).trans (congrArg₂ Instr.setxy hx hy)
  | render d =>
    rw [decode_render (OpField.render d rfl), encode, BitVec.extractLsb'_append_eq_right]
  | start => exact decode_start (OpField.start rfl)
  | map x y =>
    obtain ⟨hx, hy⟩ := formatXY_fields 0x6 x y
    exact (decode_map (OpField.map x y rfl)).trans (congrArg₂ Instr.map hx hy)
  | rdpix k => rw [decode_rdpix (OpField.rdpix k rfl), encode, BitVec.extractLsb'_append_eq_right]
  | reserved op =>
    have hop : (encode (.reserved op)).toNat / 2 ^ 28 = op.toNat := OpField.reserved op hi
    have hfield : opField (encode (.reserved op)) = op := by rw [← BitVec.toNat_inj, opField_toNat, hop]
    rw [decode_reserved (hop ▸ of_decide_eq_true hi), hfield]

/-- A concatenation, widened, as the rule writes it: the upper part shifted over the lower one. -/
theorem setWidth_append_eq_or {n m : Nat} (k : Nat) (x : BitVec n) (y : BitVec m) :
    (x ++ y).setWidth k = x.setWidth k <<< m ||| y.setWidth k := by
  apply BitVec.eq_of_getLsbD_eq
  intro i hi
  by_cases hm : i < m
  · simp [BitVec.getLsbD_append, hi, hm]
  · simp [BitVec.getLsbD_append, hi, hm, BitVec.getLsbD_of_ge y i (by omega)]

theorem encode_setcolor (r g b : BitVec 8) :
    encode (.setcolor r g b) = 0x20000000 ||| r.setWidth 32 <<< 16 ||| g.setWidth 32 <<< 8 ||| b.setWidth 32 := by
  rw [← BitVec.setWidth_eq (encode _)]
  simp only [encode, setWidth_append_eq_or, BitVec.shiftLeft_or_distrib, ← BitVec.shiftLeft_add]
  simp

/-- Format XY of R66, under any opcode. -/
theorem formatXY_eq_or (op : BitVec 4) (x y : BitVec 3) :
    (op ++ 0#21 ++ y ++ 0#1 ++ x : Word) = op.setWidth 32 <<< 28 ||| y.setWidth 32 <<< 4 ||| x.setWidth 32 := by
  rw [← BitVec.setWidth_eq (op ++ 0#21 ++ y ++ 0#1 ++ x)]
  simp only [setWidth_append_eq_or, BitVec.shiftLeft_or_distrib, ← BitVec.shiftLeft_add]
  simp

/-- Settles O1: the encodings are concatenations, widened by `setWidth_append_eq_or`, and `decode_encode`. -/
theorem decodeInvertsEncode : Obligations.DecodeInvertsEncode :=
  ⟨rfl, rfl, rfl, encode_setcolor, formatXY_eq_or 3, setWidth_append_eq_or 32 (0x4#4 ++ 0#24), formatXY_eq_or 6,
    setWidth_append_eq_or 32 (0x7#4 ++ 0#23), fun _ => decode_encode⟩

/-! ### Reserved bits -/

theorem fieldMask_keeps_op (i : Instr) : i.fieldMask.extractLsb' 28 4 = BitVec.allOnes 4 := by
  cases i <;> rw [Instr.fieldMask] <;> rfl

theorem opField_and_fieldMask (w : Word) (i : Instr) : opField (w &&& i.fieldMask) = opField w :=
  extract_and w _ 28 4 (fieldMask_keeps_op i)

/-- Clearing reserved bits moves no word to another row, and keeps the fields of its own. -/
theorem decode_and_fieldMask (w : Word) : decode (w &&& (decode w).fieldMask) = decode w := by
  have hop (i : Instr) : (w &&& i.fieldMask).toNat / 2 ^ 28 = w.toNat / 2 ^ 28 := by
    rw [← opField_toNat, opField_and_fieldMask, opField_toNat]
  rcases opcode_cases (w.toNat / 2 ^ 28) with h | h | h | h | h | h | h | h | h
  · rw [decode_nop h, decode_nop ((hop _).trans h)]
  · rw [decode_clear h, decode_clear ((hop _).trans h)]
  · rw [decode_setcolor h, decode_setcolor ((hop _).trans h), Instr.fieldMask, extract_and _ _ 16 8 rfl,
      extract_and _ _ 8 8 rfl, extract_and _ _ 0 8 rfl]
  · rw [decode_setxy h, decode_setxy ((hop _).trans h), Instr.fieldMask, extract_and _ _ 0 3 rfl, extract_and _ _ 4 3 rfl]
  · rw [decode_render h, decode_render ((hop _).trans h), Instr.fieldMask, extract_and _ _ 0 4 rfl]
  · rw [decode_start h, decode_start ((hop _).trans h)]
  · rw [decode_map h, decode_map ((hop _).trans h), Instr.fieldMask, extract_and _ _ 0 3 rfl, extract_and _ _ 4 3 rfl]
  · rw [decode_rdpix h, decode_rdpix ((hop _).trans h), Instr.fieldMask, extract_and _ _ 0 5 rfl]
  · rw [decode_reserved h, decode_reserved ((hop _).symm ▸ h), opField_and_fieldMask]

/-- CMD_READY looks at the opcode alone (10_state.md R43). -/
theorem cmdReady_congr {v w : Word} (h : opField v = opField w) (s : State) : s.cmdReady v = s.cmdReady w := by
  rw [State.cmdReady, State.cmdReady, h]

/-- Format Z of R66, which reserved opcodes share. -/
theorem formatZ_and_mask (op : BitVec 4) : (op ++ 0#28) &&& (BitVec.allOnes 4 ++ 0#28) = op ++ 0#28 := by
  rw [BitVec.and_append, BitVec.and_allOnes, BitVec.and_self]

/-- Formats D and I of R66: the opcode and one field at the bottom. -/
theorem lowField_and_mask {k z : Nat} (op : BitVec 4) (v : BitVec k) :
    (op ++ 0#z ++ v) &&& (BitVec.allOnes 4 ++ 0#z ++ BitVec.allOnes k) = op ++ 0#z ++ v := by
  simp only [BitVec.and_append, BitVec.and_allOnes, BitVec.and_self]

/-- Format XY of R66. -/
theorem formatXY_and_mask (op : BitVec 4) (x y : BitVec 3) :
    (op ++ 0#21 ++ y ++ 0#1 ++ x) &&& (BitVec.allOnes 4 ++ 0#21 ++ BitVec.allOnes 3 ++ 0#1 ++ BitVec.allOnes 3) =
      op ++ 0#21 ++ y ++ 0#1 ++ x := by
  simp only [BitVec.and_append, BitVec.and_allOnes, BitVec.and_self]

/-- Format C of R66. -/
theorem formatC_and_mask (op : BitVec 4) (r g b : BitVec 8) :
    (op ++ 0#4 ++ r ++ g ++ b) &&&
      (BitVec.allOnes 4 ++ 0#4 ++ BitVec.allOnes 8 ++ BitVec.allOnes 8 ++ BitVec.allOnes 8) = op ++ 0#4 ++ r ++ g ++ b := by
  simp only [BitVec.and_append, BitVec.and_allOnes, BitVec.and_self]

theorem encode_and_fieldMask (i : Instr) : encode i &&& i.fieldMask = encode i := by
  cases i with
  | nop | clear | start => rfl
  | setcolor r g b => exact formatC_and_mask 0x2 r g b
  | setxy x y => exact formatXY_and_mask 0x3 x y
  | render d => exact lowField_and_mask 0x4 d
  | map x y => exact formatXY_and_mask 0x6 x y
  | rdpix k => exact lowField_and_mask 0x7 k
  | reserved op => exact formatZ_and_mask op

/-- Settles O3: a word and its masking have one opcode and decode to one command, so HOST accepts and runs them alike. -/
theorem reservedBitsIgnored : Obligations.ReservedBitsIgnored := by
  have hready (w : Word) (s : State) : s.cmdReady (w &&& (decode w).fieldMask) = s.cmdReady w :=
    cmdReady_congr (opField_and_fieldMask w _) s
  refine ⟨decode_and_fieldMask, hready, fun w rest s hc => ?_, fun i _ => encode_and_fieldMask i⟩
  have hmasked := Scope.stepEvent_host_ready (s := { s with cmdQ := (w &&& (decode w).fieldMask) :: rest }) rfl
    ((hready w s).trans hc)
  have hword := Scope.stepEvent_host_ready (s := { s with cmdQ := w :: rest }) rfl hc
  rw [hmasked, hword, decode_and_fieldMask]

/-! ### The rows of the opcode map -/

/-- The word with its opcode alone. -/
theorem and_opcodeMask (w : Word) : w &&& 0xF0000000 = opField w ++ 0#28 := by
  have hw : opField w ++ w.extractLsb' 0 28 = w := BitVec.extractLsb'_append_extractLsb' (w := 4) (len := 28)
  have hmask : (0xF0000000 : Word) = BitVec.allOnes 4 ++ 0#28 := rfl
  calc w &&& 0xF0000000
    _ = (opField w ++ w.extractLsb' 0 28) &&& (BitVec.allOnes 4 ++ 0#28) := by rw [hw, hmask]
    _ = opField w ++ 0#28 := by rw [BitVec.and_append, BitVec.and_allOnes, BitVec.and_zero]

/-- No row looks below the opcode. -/
theorem and_rowMask {row : OpcodeRow} (hrow : row ∈ opcodeMap) (w : Word) :
    w &&& row.mask = (opField w ++ 0#28) &&& row.mask := by
  have hmask : ∀ row ∈ opcodeMap, 0xF0000000 &&& row.mask = row.mask := by decide
  rw [← and_opcodeMask, BitVec.and_assoc, hmask row hrow]

theorem mnemonic_decode_congr {v w : Word} (h : opField v = opField w) : (decode v).mnemonic = (decode w).mnemonic := by
  unfold decode
  rw [h]
  split <;> rfl

/-- The sixteen opcodes, each with its row. -/
theorem opcode_selects_one_row : ∀ op : BitVec 4, ∃ row ∈ opcodeMap, (op ++ 0#28) &&& row.mask = row.value ∧
    row.mnemonic = (decode (op ++ 0#28)).mnemonic ∧
    ∀ other ∈ opcodeMap, (op ++ 0#28) &&& other.mask = other.value → other = row := by
  decide

/-- Settles O4: masks and mnemonics depend on the opcode alone, and for the sixteen opcodes the map is evaluated. -/
theorem wordSelectsOneRow : Obligations.WordSelectsOneRow := by
  intro w
  obtain ⟨row, hrow, hmatch, hname, honly⟩ := opcode_selects_one_row (opField w)
  have hop : opField (opField w ++ 0#28) = opField w := BitVec.extractLsb'_append_eq_left
  refine ⟨row, hrow, (and_rowMask hrow w).trans hmatch, hname.trans (mnemonic_decode_congr hop), fun other hother h => ?_⟩
  exact honly other hother ((and_rowMask hother w).symm.trans h)

/-- Settles O5: twelve words, evaluated. -/
theorem exampleWordsDecode : Obligations.ExampleWordsDecode := by
  unfold Obligations.ExampleWordsDecode
  decide

/-! ### The assembler -/

theorem asmField_of_lt {n v : Nat} (h : v < 2 ^ n) : asmField n v = some (BitVec.ofNat n v) := if_pos h

theorem asmField_of_ge {n v : Nat} (h : 2 ^ n ≤ v) : asmField n v = none := if_neg (Nat.not_lt.mpr h)

theorem oneWord_setcolor {r g b : Nat} (hr : r < 256) (hg : g < 256) (hb : b < 256) :
    (AsmStatement.setcolor r g b).oneWord =
      some (encode (.setcolor (BitVec.ofNat 8 r) (BitVec.ofNat 8 g) (BitVec.ofNat 8 b))) := by
  simp [AsmStatement.oneWord, AsmStatement.command, asmField_of_lt (n := 8), hr, hg, hb]

theorem oneWord_setxy {x y : Nat} (hx : x < 8) (hy : y < 8) :
    (AsmStatement.setxy x y).oneWord = some (encode (.setxy (BitVec.ofNat 3 x) (BitVec.ofNat 3 y))) := by
  simp [AsmStatement.oneWord, AsmStatement.command, asmField_of_lt (n := 3), hx, hy]

theorem oneWord_render {d : Nat} (hd : d < 16) :
    (AsmStatement.render d).oneWord = some (encode (.render (BitVec.ofNat 4 d))) := by
  simp [AsmStatement.oneWord, AsmStatement.command, asmField_of_lt (n := 4), hd]

theorem oneWord_setcolor_eq_none {r g b : Nat} (h : 256 ≤ r ∨ 256 ≤ g ∨ 256 ≤ b) :
    (AsmStatement.setcolor r g b).oneWord = none := by
  rcases h with h | h | h <;> simp [AsmStatement.oneWord, AsmStatement.command, asmField_of_ge (n := 8), h]

theorem oneWord_setxy_eq_none {x y : Nat} (h : 8 ≤ x ∨ 8 ≤ y) : (AsmStatement.setxy x y).oneWord = none := by
  rcases h with h | h <;> simp [AsmStatement.oneWord, AsmStatement.command, asmField_of_ge (n := 3), h]

theorem oneWord_map_eq_none {x y : Nat} (h : 8 ≤ x ∨ 8 ≤ y) : (AsmStatement.map x y).oneWord = none := by
  rcases h with h | h <;> simp [AsmStatement.oneWord, AsmStatement.command, asmField_of_ge (n := 3), h]

theorem oneWord_render_eq_none {d : Nat} (h : 16 ≤ d) : (AsmStatement.render d).oneWord = none := by
  simp [AsmStatement.oneWord, AsmStatement.command, asmField_of_ge (n := 4), h]

theorem oneWord_rdpix_eq_none {i : Nat} (h : 32 ≤ i) : (AsmStatement.rdpix i).oneWord = none := by
  simp [AsmStatement.oneWord, AsmStatement.command, asmField_of_ge (n := 5), h]

theorem words_of_expand_pair {s p q : AsmStatement} {v w : Word} (hs : s.expand = [p, q]) (hp : p.oneWord = some v)
    (hq : q.oneWord = some w) : s.words = some [v, w] := by
  simp [AsmStatement.words, hs, hp, hq]

/-- A list of statements with one that does not assemble does not assemble. -/
theorem mapM_oneWord_eq_none {p : AsmStatement} (hp : p.oneWord = none) :
    ∀ {l : List AsmStatement}, p ∈ l → l.mapM AsmStatement.oneWord = none
  | q :: l, h => by
    rw [List.mapM_cons]
    rcases List.mem_cons.mp h with rfl | h
    · rw [hp]
      rfl
    · rw [mapM_oneWord_eq_none hp h]
      cases q.oneWord <;> rfl

theorem words_eq_none {s p : AsmStatement} (hp : p.oneWord = none) (h : p ∈ s.expand) : s.words = none :=
  mapM_oneWord_eq_none hp h

theorem words_word (v : Nat) : (AsmStatement.word v).words = if v < 2 ^ 32 then some [BitVec.ofNat 32 v] else none := by
  by_cases h : v < 2 ^ 32
  · rw [if_pos h]
    simp [AsmStatement.words, AsmStatement.expand, AsmStatement.oneWord, asmField_of_lt h]
  · rw [if_neg h]
    exact words_eq_none (p := .word v) (asmField_of_ge (Nat.le_of_not_lt h)) List.mem_cons_self

/-- Settles O6: a pseudo-instruction is the pair of its expansion, and one part out of range is enough for an error. -/
theorem pseudoInstructionsExpand : Obligations.PseudoInstructionsExpand := by
  refine ⟨fun d hd => ?_, fun x hx y hy r hr g hg b hb => ?_, rfl, fun x hx y hy => ?_, words_word, fun x y h => ⟨?_, ?_⟩,
    fun d h => ?_, fun i h => ?_, fun r g b h => ?_, fun d h => ?_, fun x y r g b h => ?_, fun x y h => ?_⟩
  · exact words_of_expand_pair rfl (oneWord_render hd) rfl
  · exact words_of_expand_pair rfl (oneWord_setcolor hr hg hb) (oneWord_setxy hx hy)
  · exact words_of_expand_pair rfl rfl (oneWord_setxy hx hy)
  · exact words_eq_none (oneWord_setxy_eq_none h) List.mem_cons_self
  · exact words_eq_none (oneWord_map_eq_none h) List.mem_cons_self
  · exact words_eq_none (oneWord_render_eq_none h) List.mem_cons_self
  · exact words_eq_none (oneWord_rdpix_eq_none h) List.mem_cons_self
  · exact words_eq_none (oneWord_setcolor_eq_none h) List.mem_cons_self
  · exact words_eq_none (oneWord_render_eq_none h) List.mem_cons_self
  · rw [← or_assoc] at h
    rcases h with hxy | hrgb
    · exact words_eq_none (oneWord_setxy_eq_none hxy) (List.mem_cons_of_mem _ List.mem_cons_self)
    · exact words_eq_none (oneWord_setcolor_eq_none hrgb) List.mem_cons_self
  · exact words_eq_none (oneWord_setxy_eq_none h) (List.mem_cons_of_mem _ List.mem_cons_self)

end Sys2Proof.Proofs.Encoding
end

section
/-! PROOF. The statements about the coordinate mapper and the commands of the pixel buffer (40_mapper_and_buffer.md): what each
of NOP, CLEAR, SETCOLOR, SETXY, MAP and RDPIX does and leaves alone (R83 to R88), that only START begins a frame (R90), and the
mapper with its inverse (R80 to R82). -/

namespace Sys2Proof.Proofs.Buffer

open Sys2Proof Sys2Proof.Machine Sys2Proof.Proofs

/-! ### What begins a frame -/

/-- The registers a command other than START may write (40_mapper_and_buffer.md R90). -/
theorem exec_frame {i : Instr} {s t : State} (hi : i ≠ .start) (h : exec i s = .next t) :
    t = { s with pb := t.pb, color := t.color, mapIdx := t.mapIdx, rdata := t.rdata, err := t.err, errCode := t.errCode } := by
  rcases exec_cases i s with ⟨hstart, -⟩ | hx | ⟨_, hx⟩ | ⟨_, hx⟩ | ⟨_, hx⟩ | ⟨_, hx⟩ | ⟨_, hx⟩
  · exact absurd hstart hi
  all_goals obtain rfl := Host.Outcome.next.inj (hx.symm.trans h); rfl

/-- A command other than START leaves TX_STATE alone (40_mapper_and_buffer.md R90). -/
theorem exec_txState {i : Instr} {s t : State} (hi : i ≠ .start) (h : exec i s = .next t) : t.txState = s.txState := by
  rw [exec_frame hi h]

/-- An accepted START finds the transmitter idle (10_state.md R43). -/
theorem txState_idle_of_start_ready {w : Word} {s : State} (hw : decode w = .start) (hc : s.cmdReady w = true) :
    s.txState = .idle := by
  by_contra hs
  rw [start_held hs hw] at hc
  cases hc

/-- TX_STATE becomes DRAIN in no other way than by an accepted START (40_mapper_and_buffer.md R90, 42_transmitter.md R103). -/
theorem moves_to_drain {e : Event} {s t : State} (h : Moves e s t) (hd : t.txState = .drain) : s.txState = .drain ∨
    (e = .host ∧ s.txState = .idle ∧ ∃ w, s.cmdWord = some w ∧ s.cmdReady w = true ∧ decode w = .start) := by
  cases h with
  | @host _ w rest _ hq hc hx =>
    by_cases hw : decode w = .start
    · exact .inr ⟨rfl, txState_idle_of_start_ready hw hc, w, by rw [State.cmdWord, hq, List.head?_cons], hc, hw⟩
    · exact .inl ((exec_txState hw hx).symm.trans hd)
  | lastBit | tickLatch | reset => cases hd
  | init => rw [initStep_frame] at hd; exact .inl hd
  | tick | tickHold | debQuiet | debAccept | button => left; simpa using hd
  | _ => exact .inl hd

/-- Settles O26: `exec_frame` for the commands and `moves_to_drain` for the steps. -/
theorem onlyStartBeginsFrame : Obligations.OnlyStartBeginsFrame := by
  refine ⟨fun i s hi => ?_, fun e s t h => moves_to_drain (moves_of_stepEvent h)⟩
  obtain ⟨t, ht⟩ := exec_goes_on i s
  exact ⟨t, ht, exec_frame hi ht⟩

/-! ### The commands of the buffer -/

/-- No word is accepted while a frame drains (10_state.md R43). -/
theorem cmdReady_drain {s : State} (w : Word) (hd : s.txState = .drain) : s.cmdReady w = false := by
  by_contra hready
  obtain ⟨-, hnd, -⟩ := (cmdReady_iff w s).mp (by simpa using hready)
  exact hnd hd

/-- Settles O12: by the decoder's equation and `cmdReady_drain`. -/
theorem nopChangesNothing : Obligations.NopChangesNothing :=
  ⟨fun w h => ⟨Encoding.decode_nop h, fun _ hd => cmdReady_drain w hd⟩, fun _ => rfl⟩

/-- Settles O13: the buffer written is `blackBuffer`, and a black pixel read back is the word 0. -/
theorem clearBlackensBuffer : Obligations.ClearBlackensBuffer := by
  refine ⟨fun w h => Encoding.decode_clear h, fun s => ⟨s.withPb blackBuffer, rfl, readPixel_blackBuffer, rfl, fun i h => ?_⟩⟩
  rw [exec_rdpix_inRange i h, withPb_pb, readPixel_blackBuffer]
  rfl

/-- Settles O14: the decoder's row for OP = 2, and the meaning of the command as it stands. -/
theorem setcolorLoadsColor : Obligations.SetcolorLoadsColor := by
  refine ⟨fun w => ?_, fun _ _ _ _ => rfl⟩
  obtain ⟨-, -, hsetcolor, -⟩ := Encoding.decodeFollowsOpcode w
  exact hsetcolor

/-- Settles O15: on the grid by reading the buffer after the one write, off it by `exec_setxy_offGrid`. -/
theorem setxyWritesMappedPixel : Obligations.SetxyWritesMappedPixel := by
  refine ⟨fun w => ?_, fun x y hx hy s => ⟨_, exec_setxy_onGrid x y hx hy s, ?_, fun i hi => ?_, rfl⟩,
    fun x y s h => exec_setxy_offGrid x y h s⟩
  · obtain ⟨-, -, -, hsetxy, -⟩ := Encoding.decodeFollowsOpcode w
    exact hsetxy
  · exact readPixel_setPixel_same _ _ _
  · exact readPixel_setPixel_other _ _ _ _ hi

/-- An index of the buffer fits MAP_IDX (40_mapper_and_buffer.md R89). -/
theorem ofNat_index_toNat (k : Fin 25) : (BitVec.ofNat 5 k.val).toNat = k.val := by
  rw [BitVec.toNat_ofNat, Nat.mod_eq_of_lt (by omega)]

/-- STATUS[20:16] is MAP_IDX (10_state.md R41). -/
theorem status_mapIdx (s : State) : s.status.extractLsb' 16 5 = s.mapIdx := by
  obtain ⟨-, -, hidx, -⟩ := Registers.status_fields s
  exact hidx

/-- Settles O16: the index fits the register, which STATUS shows; off the grid by `exec_map_offGrid`. -/
theorem mapLoadsIndex : Obligations.MapLoadsIndex := by
  refine ⟨fun w => ?_, fun x y hx hy s => ⟨_, exec_map_onGrid x y hx hy s, ofNat_index_toNat _, status_mapIdx _, rfl⟩,
    fun x y s h => exec_map_offGrid x y h s⟩
  obtain ⟨-, -, -, -, -, -, hmap, -⟩ := Encoding.decodeFollowsOpcode w
  exact hmap

/-- Settles O17: the number of an RDATA word by `rdataWord_toNat`; from index 25 on by `exec_rdpix_outOfRange`. -/
theorem rdpixLoadsPixel : Obligations.RdpixLoadsPixel := by
  refine ⟨fun w => ?_, fun i h s => ⟨_, exec_rdpix_inRange i h s, rdataWord_toNat _, rfl⟩,
    fun i s h => exec_rdpix_outOfRange i h s⟩
  obtain ⟨-, -, -, -, -, -, -, hrdpix, -⟩ := Encoding.decodeFollowsOpcode w
  exact hrdpix

/-! ### The mapper -/

/-- The mapper's formula with S = 5 (40_mapper_and_buffer.md R80). -/
theorem mapIndex_val (x y : Fin 5) :
    (mapIndex x y).val = if y.val % 2 = 0 then 24 - 5 * y.val - x.val else 20 - 5 * y.val + x.val := by
  unfold mapIndex
  split <;> simp only [Config.gridSide] <;> omega

/-- The inverse gives back the cell (40_mapper_and_buffer.md R81). -/
theorem unmapIndex_mapIndex : ∀ x y : Fin 5, unmapIndex (mapIndex x y) = (x, y) := by decide

/-- The inverse is a right inverse too, since every index is some cell's (40_mapper_and_buffer.md R81). -/
theorem mapIndex_unmapIndex (i : Fin 25) : mapIndex (unmapIndex i).1 (unmapIndex i).2 = i := by
  obtain ⟨x, y, rfl⟩ := mapIndex_surjective i
  rw [unmapIndex_mapIndex]

/-- Settles O27: the formula by the parity of the row, the two inverse laws, and the table row by row. -/
theorem mapperIsBijection : Obligations.MapperIsBijection :=
  ⟨mapIndex_val, unmapIndex_mapIndex, mapIndex_unmapIndex, by decide⟩

end Sys2Proof.Proofs.Buffer
end

section
/-! PROOF. The statements about the renderer (41_glyph_render.md): what RENDER does (R96), and which pixels it leaves lit and how
many (R97). -/

namespace Sys2Proof.Proofs.Glyph

open Sys2Proof Sys2Proof.Machine Sys2Proof.Proofs

/-- Settles O18: the decoder's row for OP = 4, the rendered buffer cell by cell, and `exec_render_noDigit` above 9. -/
theorem renderDrawsGlyph : Obligations.RenderDrawsGlyph := by
  refine ⟨fun w => ?_, fun d h s => ⟨_, exec_render_digit d h s, readPixel_drawGlyph _, rfl⟩,
    fun d s h => exec_render_noDigit d h s⟩
  obtain ⟨-, -, -, -, hrender, -⟩ := Encoding.decodeFollowsOpcode w
  exact hrender

/-! ### The lit set -/

/-- The bit of a glyph that pixel i shows (41_glyph_render.md R97). -/
def pixelBit (i : Fin 25) : Nat := cellBit (unmapIndex i).1 (unmapIndex i).2

/-- What a bitmap renders to, index by index (41_glyph_render.md R97). -/
theorem readPixel_drawGlyph_index (bits : BitVec 25) (i : Fin 25) :
    readPixel (drawGlyph bits) i = if bits.getLsbD (pixelBit i) then Config.lit else Pixel.black := by
  have h := readPixel_drawGlyph bits (unmapIndex i).1 (unmapIndex i).2
  rwa [Buffer.mapIndex_unmapIndex] at h

/-- A pixel is lit exactly if its bit is set, since LIT is not black. -/
theorem drawGlyph_beq_lit (bits : BitVec 25) (i : Fin 25) :
    (readPixel (drawGlyph bits) i == Config.lit) = bits.getLsbD (pixelBit i) := by
  rw [readPixel_drawGlyph_index]
  cases bits.getLsbD (pixelBit i) <;> rfl

theorem cellBit_lt (x y : Fin 5) : cellBit x y < 25 := by
  unfold cellBit
  omega

/-- A bit number is the row and the column of its cell, in base 5 (41_glyph_render.md R95). -/
theorem cellBit_injective {x y x' y' : Fin 5} (h : cellBit x y = cellBit x' y') : x = x' ∧ y = y' := by
  unfold cellBit at h
  omega

theorem pixelBit_injective : Function.Injective pixelBit := by
  intro i j h
  obtain ⟨hx, hy⟩ := cellBit_injective h
  rw [← Buffer.mapIndex_unmapIndex i, ← Buffer.mapIndex_unmapIndex j, hx, hy]

/-- The bits of the 25 pixels are the 25 bits of a glyph, each once. -/
theorem map_pixelBit_perm : ((List.finRange 25).map pixelBit).Perm (List.range 25) := by
  have hnodup : ((List.finRange 25).map pixelBit).Nodup := (List.nodup_finRange 25).map pixelBit_injective
  have hsub : (List.finRange 25).map pixelBit ⊆ List.range 25 := by
    intro k hk
    obtain ⟨i, -, rfl⟩ := List.mem_map.mp hk
    exact List.mem_range.mpr (cellBit_lt _ _)
  exact (hnodup.subperm hsub).perm_of_length_le (by simp)

/-- There are as many lit pixels as set bits, since `pixelBit` pairs them off (41_glyph_render.md R97). -/
theorem countP_lit_drawGlyph (bits : BitVec 25) :
    (List.finRange 25).countP (fun i => readPixel (drawGlyph bits) i == Config.lit) =
      (List.range 25).countP bits.getLsbD := by
  calc (List.finRange 25).countP (fun i => readPixel (drawGlyph bits) i == Config.lit)
    _ = (List.finRange 25).countP (bits.getLsbD ∘ pixelBit) := by
      simp only [drawGlyph_beq_lit, Function.comp_def]
    _ = ((List.finRange 25).map pixelBit).countP bits.getLsbD := List.countP_map.symm
    _ = (List.range 25).countP bits.getLsbD := map_pixelBit_perm.countP_eq _

/-- Settles O19: the rendered buffer index by index, and the lit pixels counted by their bits. -/
theorem renderedLitSet : Obligations.RenderedLitSet := by
  intro d h s t ht
  obtain rfl := Host.Outcome.next.inj ((exec_render_digit d h s).symm.trans ht)
  exact ⟨readPixel_drawGlyph_index _, countP_lit_drawGlyph _⟩

end Sys2Proof.Proofs.Glyph
end

section
/-! PROOF. The invariant of the block: every step keeps it (10_state.md R24 to R35, 42_transmitter.md R104, R105, 43_debounce.md
R134), with one rule for each of the ways a step can go. -/

namespace Sys2Proof.Proofs.Invariant

open Sys2Proof Sys2Proof.Machine Sys2Proof.Proofs

/-! ### What the invariant says outside IDLE and without a channel -/

theorem txState_of_dormant {s : State} (hd : Dormant s) : s.txState = .idle := congrArg State.txState hd

theorem ledLog_of_dormant {s : State} (hd : Dormant s) : s.ledLog = [] := congrArg State.ledLog hd

/-- A frame or a hold is in progress only in a block that runs (10_state.md R29). -/
theorem running_of_busy {s : State} (hs : BlockInv s) (hb : s.txState ≠ .idle) : s.running = true := by
  by_contra hr
  exact hb (txState_of_dormant (hs.dormant (by simpa using hr)))

/-- In a block that runs the clause for a block that does not says nothing. -/
theorem dormant_of_running {s t : State} (hr : s.running = true) : s.running = false → Dormant t := fun hn => by
  rw [hr] at hn
  cases hn

/-! ### Time and what stands outside the block -/

theorem dormant_outside {s : State} (hd : Dormant s) (usPresc : Fin 1000) (nowMs : BitVec 32) (cmdQ : List Word)
    (btn0 btn1 : Bool) :
    Dormant { s with usPresc := usPresc, nowMs := nowMs, cmdQ := cmdQ, btn0 := btn0, btn1 := btn1 } := by
  simp only [Dormant] at hd ⊢
  rw [hd]

/-- No clause speaks of the time base, the presented words or the lines. -/
theorem blockInv_outside {s : State} (hs : BlockInv s) (usPresc : Fin 1000) (nowMs : BitVec 32) (cmdQ : List Word)
    (btn0 btn1 : Bool) :
    BlockInv { s with usPresc := usPresc, nowMs := nowMs, cmdQ := cmdQ, btn0 := btn0, btn1 := btn1 } :=
  { hs with
    dormant := fun hr => dormant_outside (hs.dormant hr) usPresc nowMs cmdQ btn0 btn1
    toggles := hs.toggles }

theorem blockInv_timeBaseTick {s : State} (hs : BlockInv s) : BlockInv (timeBaseTick s) := by
  rw [timeBaseTick_frame]
  exact blockInv_outside hs _ _ s.cmdQ s.btn0 s.btn1

theorem blockInv_setBtn {s : State} (hs : BlockInv s) (b : Button) (level : Bool) : BlockInv (s.setBtn b level) := by
  cases b with
  | b0 => exact blockInv_outside hs s.usPresc s.nowMs s.cmdQ level s.btn1
  | b1 => exact blockInv_outside hs s.usPresc s.nowMs s.cmdQ s.btn0 level

theorem blockInv_hardReset (s : State) : BlockInv s.hardReset where
  mapIdx_lt := (by decide : State.reset.mapIdx.toNat < 25)
  rdata_lt := (by decide : State.reset.rdata.toNat < 2 ^ 24)
  err_iff := (by decide : State.reset.err = false ↔ State.reset.errCode = 0)
  errCode_le := (by decide : State.reset.errCode.toNat ≤ 4)
  fifo_le := Nat.zero_le _
  quiet := fun _ => ⟨rfl, rfl⟩
  idle_idx := fun _ => .inl ⟨rfl, rfl⟩
  settle_cnt := nofun
  drain_work := nofun
  drain_queue := nofun
  chOk_iff := rfl
  fatal_init := nofun
  bank_zero := fun _ => rfl
  dormant := fun _ => rfl
  toggles := fun b => by cases b <;> exact ⟨rfl, rfl⟩

/-! ### INIT -/

theorem blockInv_acquired {s : State} (hs : BlockInv s) (hf : s.fatal = false) (bank : Fin 2) :
    BlockInv { s with chOk := true, chBank := bank, initDone := true } :=
  { hs with
    chOk_iff := by simp [hf]
    fatal_init := fun _ => rfl
    bank_zero := nofun
    dormant := dormant_of_running (by simp [State.running, hf])
    toggles := hs.toggles }

theorem blockInv_noChannel {s : State} (hs : BlockInv s) (hok : s.chOk = false) (hd : Dormant s) :
    BlockInv { s with fatal := true, initDone := true } :=
  { hs with
    chOk_iff := by simp [hok]
    fatal_init := fun _ => rfl
    dormant := fun _ => by
      simp only [Dormant] at hd ⊢
      rw [hd]
    toggles := hs.toggles }

/-- INIT finds a block in which nothing but time has passed, and gives it a channel or none (42_transmitter.md R101). -/
theorem blockInv_initStep {s : State} (hs : BlockInv s) (hi : s.initDone = false) : BlockInv (initStep s) := by
  have hfatal : s.fatal = false := by
    by_contra hf
    have := hs.fatal_init (by simpa using hf)
    simp [hi] at this
  rcases initStep_cases s with ⟨-, h⟩ | ⟨-, -, h⟩ | ⟨-, -, h⟩ <;> rw [h]
  · exact blockInv_acquired hs hfatal 0
  · exact blockInv_acquired hs hfatal 1
  · exact blockInv_noChannel hs (by simpa [hi] using hs.chOk_iff) (hs.dormant ((running_false_iff s).mpr (.inl hi)))

/-! ### TXD and TXS -/

/-- The state after a TXD push (42_transmitter.md R105). -/
def pushed (s : State) (hi : s.txIdx.val < 25) : State :=
  { s with
    fifo := s.fifo ++ [pixelWord (readPixel s.pb ⟨s.txIdx.val, hi⟩)]
    txIdx := (⟨s.txIdx.val, hi⟩ : Fin 25).succ }

/-- The state after a TXS load (42_transmitter.md R107). -/
def loaded (s : State) (w : PixelWord) (rest : List PixelWord) : State := { s with fifo := rest, shreg := w, shcnt := 24 }

/-- The state after the last bit of a frame (42_transmitter.md R108). -/
def frameSent (s : State) (hc : 0 < s.shcnt.val) : State := { bitSent s hc with txState := .settle, settleCnt := 100 }

theorem length_frameWords (pb : Vector Pixel 25) : (frameWords pb).length = 25 := by simp [frameWords]

theorem getElem_frameWords (pb : Vector Pixel 25) (i : Nat) (hi : i < 25) :
    (frameWords pb)[i]? = some (pixelWord (readPixel pb ⟨i, hi⟩)) := by
  simp [frameWords, readPixel, hi]

/-- TXD: the pushed word is the next of the frame, so the queue stays a run of the frame's words (42_transmitter.md R105). -/
theorem blockInv_push {s : State} (hs : BlockInv s) (hr : s.running = true) (hd : s.txState = .drain) (hi : s.txIdx.val < 25)
    (hf : s.fifo.length < Config.fifoDepth) : BlockInv (pushed s hi) := by
  obtain ⟨k, hk, hqueue, hshreg⟩ := hs.drain_queue hd
  exact { hs with
    fifo_le := by simpa [pushed] using hf
    quiet := fun hn => absurd hd hn
    idle_idx := fun hn => nomatch hd.symm.trans hn
    settle_cnt := fun hn => nomatch hd.symm.trans hn
    drain_work := fun _ => .inr (.inl (by simp [pushed]))
    drain_queue := fun _ => by
      refine ⟨k, Nat.le_succ_of_le hk, ?_, hshreg⟩
      have hlen : k ≤ ((frameWords s.pb).take s.txIdx.val).length := by
        rw [List.length_take, length_frameWords]
        omega
      simp only [pushed, Fin.val_succ]
      rw [List.take_add_one, getElem_frameWords _ _ hi, List.drop_append_of_le_length hlen, ← hqueue, Option.toList_some]
    dormant := dormant_of_running hr
    toggles := hs.toggles }

/-- TXS load: the head of the queue is the word of the pixel after the last one loaded (42_transmitter.md R107). -/
theorem blockInv_load {s : State} {w : PixelWord} {rest : List PixelWord} (hs : BlockInv s) (hr : s.running = true)
    (hd : s.txState = .drain) (hf : s.fifo = w :: rest) : BlockInv (loaded s w rest) := by
  obtain ⟨k, -, hqueue, -⟩ := hs.drain_queue hd
  rw [hf] at hqueue
  have hlt : k < ((frameWords s.pb).take s.txIdx.val).length := by
    by_contra hge
    rw [List.drop_eq_nil_of_le (by omega)] at hqueue
    cases hqueue
  rw [List.drop_eq_getElem_cons hlt] at hqueue
  obtain ⟨hhead, hrest⟩ := List.cons.inj hqueue
  have hkidx : k < s.txIdx.val := by
    rw [List.length_take] at hlt
    omega
  have hword : (frameWords s.pb)[k]? = some w := by
    rw [hhead, List.getElem_take, List.getElem?_eq_getElem]
  have hfifo := hs.fifo_le
  rw [hf, List.length_cons] at hfifo
  exact { hs with
    fifo_le := Nat.le_of_succ_le hfifo
    quiet := fun hn => absurd hd hn
    drain_work := fun _ => .inl (by decide : 0 < (24 : Fin 25).val)
    drain_queue := fun _ => ⟨k + 1, hkidx, hrest, fun _ => ⟨Nat.succ_pos k, hword⟩⟩
    dormant := dormant_of_running hr
    toggles := hs.toggles }

/-- TXS bit, not the last of the frame: something of the frame is left (42_transmitter.md R108). -/
theorem blockInv_bit {s : State} (hs : BlockInv s) (hr : s.running = true) (hd : s.txState = .drain) (hc : 0 < s.shcnt.val)
    (hn : ¬(s.shcnt.val = 1 ∧ s.txIdx.val = 25 ∧ s.fifo = [])) : BlockInv (bitSent s hc) := by
  obtain ⟨k, hk, hqueue, hshreg⟩ := hs.drain_queue hd
  exact { hs with
    quiet := fun hq => absurd hd hq
    idle_idx := fun hq => nomatch hd.symm.trans hq
    settle_cnt := fun hq => nomatch hd.symm.trans hq
    drain_work := fun _ => by
      change 0 < s.shcnt.val - 1 ∨ s.fifo ≠ [] ∨ s.txIdx.val < 25
      by_cases hf : s.fifo = []
      · have := s.txIdx.isLt
        simp only [hf, and_true] at hn
        omega
      · exact .inr (.inl hf)
    drain_queue := fun _ => ⟨k, hk, hqueue, fun _ => hshreg hc⟩
    dormant := dormant_of_running hr
    toggles := hs.toggles }

/-- TXS bit, the last of the frame: the hold begins with the whole frame sent (42_transmitter.md R108). -/
theorem blockInv_lastBit {s : State} (hs : BlockInv s) (hr : s.running = true) (hc : 0 < s.shcnt.val) (h1 : s.shcnt.val = 1)
    (hi : s.txIdx.val = 25) (hf : s.fifo = []) : BlockInv (frameSent s hc) :=
  { hs with
    quiet := fun _ => ⟨hf, Fin.ext (by simp [frameSent, bitSent, h1])⟩
    idle_idx := nofun
    settle_cnt := fun _ => ⟨(by decide : 0 < (100 : Fin 101).val), Fin.ext hi, by simp [frameSent, bitSent]⟩
    drain_work := nofun
    drain_queue := nofun
    dormant := dormant_of_running hr
    toggles := hs.toggles }

/-! ### The hold -/

theorem blockInv_hold {s : State} (hs : BlockInv s) (ht : s.txState = .settle) (c : Fin 101) (hc : 0 < c.val) :
    BlockInv { s with settleCnt := c } := by
  obtain ⟨-, hidx, hlog⟩ := hs.settle_cnt ht
  have hr : s.running = true := running_of_busy hs (by simp [ht])
  exact { hs with
    settle_cnt := fun _ => ⟨hc, hidx, hlog⟩
    dormant := dormant_of_running hr
    toggles := hs.toggles }

theorem blockInv_latch {s : State} (hs : BlockInv s) (ht : s.txState = .settle) (log : List LedEvent) :
    BlockInv { s with settleCnt := 0, txState := .idle, ledLog := log ++ [.latch] } := by
  obtain ⟨-, hidx, -⟩ := hs.settle_cnt ht
  have hr : s.running = true := running_of_busy hs (by simp [ht])
  exact { hs with
    quiet := fun _ => hs.quiet (by simp [ht])
    idle_idx := fun _ => .inr ⟨hidx, by simp⟩
    settle_cnt := nofun
    drain_work := nofun
    drain_queue := nofun
    dormant := dormant_of_running hr
    toggles := hs.toggles }

/-! ### The debounce samples -/

theorem alternating_succ (n : Nat) : alternating (n + 1) = alternating n ++ [n % 2 == 0] := by
  simp [alternating, List.range_succ]

theorem notifiedValues_singleton (b b' : Button) (v : Bool) :
    notifiedValues b [⟨b', v⟩] = if b' = b then [v] else [] := by
  by_cases h : b' = b <;> simp [notifiedValues, h]

/-- A sample writes the registers of one button and EVT: what is left to show is the clause on the records. -/
theorem blockInv_debounce {s : State} (hs : BlockInv s) (hr : s.running = true) (b : Button) (d : DebUnit) (evt : List Notify)
    (htog : ∀ b', notifiedValues b' evt = alternating (notifiedValues b' evt).length ∧
      ((s.setDeb b d).deb b').tog = ((notifiedValues b' evt).length % 2 == 1)) :
    BlockInv { s.setDeb b d with evt := evt } := by
  cases b <;> exact { hs with dormant := dormant_of_running hr, toggles := htog }

theorem blockInv_debQuiet {s : State} (hs : BlockInv s) (hr : s.running = true) (b : Button) :
    BlockInv (s.setDeb b { s.deb b with prev := s.btn b }) := by
  have hinv : BlockInv { s.setDeb b { s.deb b with prev := s.btn b } with evt := s.evt } :=
    blockInv_debounce hs hr b _ s.evt fun b' => by
      obtain ⟨hrecords, htog⟩ := hs.toggles b'
      refine ⟨hrecords, ?_⟩
      rw [← htog]
      cases b <;> cases b' <;> rfl
  rwa [← setDeb_evt b { s.deb b with prev := s.btn b } s] at hinv

/-- An accepted edge: the record added is the next of the alternation, and TOG is its value (43_debounce.md R128, R129). -/
theorem blockInv_debAccept {s : State} (hs : BlockInv s) (hr : s.running = true) (b : Button) :
    BlockInv ((s.setDeb b ⟨s.nowMs, !(s.deb b).tog, s.btn b⟩).emitNotify ⟨b, !(s.deb b).tog⟩) := by
  rw [State.emitNotify, setDeb_evt]
  refine blockInv_debounce hs hr b _ _ fun b' => ?_
  obtain ⟨hrecords, htog⟩ := hs.toggles b'
  rw [notifiedValues_append, notifiedValues_singleton]
  by_cases hb : b = b'
  · subst hb
    have hnext : (!(s.deb b).tog) = ((notifiedValues b s.evt).length % 2 == 0) := by
      rw [htog]
      rcases Nat.mod_two_eq_zero_or_one (notifiedValues b s.evt).length with h | h <;> rw [h] <;> rfl
    rw [if_pos rfl, List.length_append, List.length_singleton, alternating_succ, ← hrecords, ← hnext, deb_setDeb_same]
    refine ⟨rfl, ?_⟩
    rw [hnext, Bool.eq_iff_iff, beq_iff_eq, beq_iff_eq]
    omega
  · rw [if_neg hb, List.append_nil, deb_setDeb_other _ _ _ _ (Ne.symm hb)]
    exact ⟨hrecords, htog⟩

/-! ### The commands -/

/-- START on an idle block: the whole frame is to be pushed (42_transmitter.md R103). -/
theorem blockInv_start {s : State} (hs : BlockInv s) (hr : s.running = true) (hi : s.txState = .idle) :
    BlockInv { s with txState := .drain, txIdx := 0 } := by
  obtain ⟨hfifo, hshcnt⟩ := hs.quiet (by simp [hi])
  exact { hs with
    quiet := fun hn => absurd rfl hn
    idle_idx := nofun
    settle_cnt := nofun
    drain_work := fun _ => .inr (.inr (by decide : (0 : Fin 26).val < 25))
    drain_queue := fun _ => ⟨0, Nat.zero_le _, by simp [hfifo], fun hpos => by simp [hshcnt] at hpos⟩
    dormant := dormant_of_running hr
    toggles := hs.toggles }

theorem blockInv_raiseError {s : State} (hs : BlockInv s) (hr : s.running = true) (c : ErrorCause) :
    BlockInv (s.raiseError c) :=
  { hs with
    err_iff := iff_of_false (by simp) (raiseError_errCode_ne_zero c s)
    errCode_le := by
      rw [raiseError_errCode]
      split
      · exact code_le_four c
      · exact hs.errCode_le
    dormant := dormant_of_running hr
    toggles := hs.toggles }

/-- A command accepted outside a frame, START in IDLE only, keeps the invariant (10_state.md R43). -/
theorem blockInv_exec {i : Instr} {s t : State} (hs : BlockInv s) (hr : s.running = true) (hd : s.txState ≠ .drain)
    (hstart : i = .start → s.txState = .idle) (h : exec i s = .next t) : BlockInv t := by
  rcases exec_cases i s with ⟨hi, hx⟩ | hx | ⟨pb, hx⟩ | ⟨c, hx⟩ | ⟨k, hx⟩ | ⟨p, hx⟩ | ⟨c, hx⟩ <;>
    obtain rfl := Host.Outcome.next.inj (hx.symm.trans h)
  · exact blockInv_start hs hr (hstart hi)
  · exact hs
  · exact { hs with
      drain_queue := fun hn => absurd hn hd
      dormant := dormant_of_running hr
      toggles := hs.toggles }
  · exact { hs with dormant := dormant_of_running hr, toggles := hs.toggles }
  · exact { hs with
      mapIdx_lt := by simp only [Buffer.ofNat_index_toNat, k.isLt]
      dormant := dormant_of_running hr
      toggles := hs.toggles }
  · exact { hs with
      rdata_lt := rdataWord_lt p
      dormant := dormant_of_running hr
      toggles := hs.toggles }
  · exact blockInv_raiseError hs hr c

/-! ### Every step -/

/-- Each way an event can go keeps the invariant. -/
theorem blockInv_moves {e : Event} {s t : State} (hs : BlockInv s) (h : Moves e s t) : BlockInv t := by
  cases h with
  | stall | read => exact hs
  | init hi => exact blockInv_initStep hs hi
  | txd hr hd hi hf => exact blockInv_push hs hr hd hi hf
  | load hr hd _ hf => exact blockInv_load hs hr hd hf
  | bit hr hd hc hn => exact blockInv_bit hs hr hd hc hn
  | lastBit hr _ hc hi hf => exact blockInv_lastBit hs hr _ hc hi hf
  | tick => exact blockInv_timeBaseTick hs
  | tickHold ht hc => exact blockInv_hold (blockInv_timeBaseTick hs) (by simpa using ht) _ (Nat.sub_pos_of_lt hc)
  | tickLatch ht => exact blockInv_latch (blockInv_timeBaseTick hs) (by simpa using ht) s.ledLog
  | debQuiet hr => exact blockInv_debQuiet hs hr _
  | debAccept hr => exact blockInv_debAccept hs hr _
  | @host _ w rest _ _ hc hx =>
    obtain ⟨hr, hd, -⟩ := (cmdReady_iff w s).mp hc
    exact blockInv_exec (blockInv_outside hs s.usPresc s.nowMs rest s.btn0 s.btn1) hr hd
      (fun hw => Buffer.txState_idle_of_start_ready hw hc) hx
  | @present _ w => exact blockInv_outside hs s.usPresc s.nowMs (s.cmdQ ++ [w]) s.btn0 s.btn1
  | button => exact blockInv_setBtn hs _ _
  | reset => exact blockInv_hardReset s

theorem blockInv_stepEvent {e : Event} {s t : State} (hs : BlockInv s) (h : stepEvent e s = .next t) : BlockInv t :=
  blockInv_moves hs (moves_of_stepEvent h)

/-- Settles O52: the next event, whatever it is, happens in the same state but for the schedule. -/
theorem invariantKeptByStep : Obligations.InvariantKeptByStep := by
  intro s t hs h
  cases hscript : s.script with
  | nil =>
    rw [Scope.step_of_script_nil hscript] at h
    exact blockInv_stepEvent (hs.schedule s.script (s.freeCount + 1)) h
  | cons e es =>
    rw [Scope.step_of_script_cons hscript] at h
    exact blockInv_stepEvent (hs.schedule es s.freeCount) h

end Sys2Proof.Proofs.Invariant
end

section
/-! PROOF. The statements about the transmitter (42_transmitter.md): how a frame begins, is pushed, loaded, sent and held (R101 to
R110, R114), what it puts on the line (R109, R112, R115), that it completes (R119), and what it leaves alone (R116 to R118). -/

namespace Sys2Proof.Proofs.Transmitter

open Sys2Proof Sys2Proof.Machine Sys2Proof.Proofs Sys2Proof.Proofs.Invariant

/-! ### The ways a step moves the frame -/

/-- The registers of the transmitter and LEDLOG are the same in both states, and so is the buffer of a draining frame. -/
structure SameFrame (s t : State) : Prop where
  txState : t.txState = s.txState
  txIdx : t.txIdx = s.txIdx
  fifo : t.fifo = s.fifo
  shreg : t.shreg = s.shreg
  shcnt : t.shcnt = s.shcnt
  settleCnt : t.settleCnt = s.settleCnt
  ledLog : t.ledLog = s.ledLog
  pb : s.txState = .drain → t.pb = s.pb

/-- The event brings the frame or its hold forward: an enabled TXD or TXS step, or a tick of the hold (42_transmitter.md R119). -/
def Advances (e : Event) (s : State) : Prop :=
  enabled e s = true ∧ (e = .txd ∨ e = .txs ∨ (e = .tick ∧ s.txState = .settle))

/-- The event is no accepted START (42_transmitter.md R103). -/
def NoStart (e : Event) (s : State) : Prop :=
  e = .host → ∀ w, s.cmdWord = some w → decode w = .start → s.cmdReady w = false

/-- What an event other than reset and an accepted START can do to the frame in progress. -/
inductive TxMoves : Event → State → State → Prop where
  | same {e s t} (hq : ¬Advances e s) (h : SameFrame s t) : TxMoves e s t
  | push {s} (hd : s.txState = .drain) (hi : s.txIdx.val < 25) : TxMoves .txd s (pushed s hi)
  | load {s w rest} (hd : s.txState = .drain) (hc : s.shcnt = 0) (hf : s.fifo = w :: rest) :
      TxMoves .txs s (loaded s w rest)
  | bit {s} (hd : s.txState = .drain) (hc : 0 < s.shcnt.val) : TxMoves .txs s (bitSent s hc)
  | lastBit {s} (hd : s.txState = .drain) (hc : 0 < s.shcnt.val) (h1 : s.shcnt.val = 1) (hi : s.txIdx.val = 25)
      (hf : s.fifo = []) : TxMoves .txs s (frameSent s hc)
  | hold {s} (hs : s.txState = .settle) (hc : 1 < s.settleCnt.val) :
      TxMoves .tick s { timeBaseTick s with settleCnt := ⟨s.settleCnt.val - 1, by omega⟩ }
  | latch {s} (hs : s.txState = .settle) (hc : s.settleCnt.val = 1) :
      TxMoves .tick s { timeBaseTick s with settleCnt := 0, txState := .idle, ledLog := s.ledLog ++ [.latch] }

theorem SameFrame.refl (s : State) : SameFrame s s := ⟨rfl, rfl, rfl, rfl, rfl, rfl, rfl, fun _ => rfl⟩

/-- An event of no agent of the transmitter does not bring the frame forward. -/
theorem not_advances {e : Event} {s : State} (htxd : e ≠ .txd) (htxs : e ≠ .txs) (htick : e = .tick → s.txState ≠ .settle) :
    ¬Advances e s := by
  rintro ⟨-, h | h | ⟨h, hs⟩⟩
  · exact htxd h
  · exact htxs h
  · exact htick h hs

/-- No command but START touches the frame, and while a frame drains none is accepted (10_state.md R43). -/
theorem sameFrame_exec {i : Instr} {s t : State} (hi : i ≠ .start) (hd : s.txState ≠ .drain) (h : exec i s = .next t) :
    SameFrame s t := by
  rw [Buffer.exec_frame hi h]
  exact ⟨rfl, rfl, rfl, rfl, rfl, rfl, rfl, fun hdrain => absurd hdrain hd⟩

theorem txMoves_of_moves {e : Event} {s t : State} (h : Moves e s t) (hreset : e ≠ .reset) (hstart : NoStart e s) :
    TxMoves e s t := by
  cases h with
  | txd _ hd hi => exact .push hd hi
  | load _ hd hc hf => exact .load hd hc hf
  | bit _ hd hc => exact .bit hd hc
  | lastBit _ hd hc hi hf => exact .lastBit hd _ hc hi hf
  | tickHold hs hc => exact .hold hs hc
  | tickLatch hs hc => exact .latch hs hc
  | reset => exact absurd rfl hreset
  | stall hdis =>
    refine .same (fun hadv => ?_) (.refl s)
    rw [hadv.1] at hdis
    cases hdis
  | tick hn =>
    refine .same (not_advances nofun nofun fun _ => hn) ?_
    rw [timeBaseTick_frame]
    exact ⟨rfl, rfl, rfl, rfl, rfl, rfl, rfl, fun _ => rfl⟩
  | @host _ w rest _ hq hc hx =>
    refine .same (not_advances nofun nofun nofun) ?_
    have hi : decode w ≠ .start := fun hw => by
      have hheld := hstart rfl w (by rw [State.cmdWord, hq, List.head?_cons]) hw
      rw [hc] at hheld
      cases hheld
    obtain ⟨-, hd, -⟩ := (cmdReady_iff w s).mp hc
    have hsame := sameFrame_exec hi (s := { s with cmdQ := rest }) hd hx
    exact { hsame with pb := hsame.pb }
  | init =>
    refine .same (not_advances nofun nofun nofun) ?_
    rw [initStep_frame]
    exact ⟨rfl, rfl, rfl, rfl, rfl, rfl, rfl, fun _ => rfl⟩
  | debQuiet | debAccept | button => exact .same (not_advances nofun nofun nofun) (by constructor <;> simp)
  | read | present =>
    exact .same (not_advances nofun nofun nofun) ⟨rfl, rfl, rfl, rfl, rfl, rfl, rfl, fun _ => rfl⟩

/-- Until the hold has ended no START is accepted (42_transmitter.md R118). -/
theorem noStart_of_busy {e : Event} {s : State} (hb : s.txState ≠ .idle) : NoStart e s := fun _ _ _ hw => start_held hb hw

/-- While a frame or its hold is in progress only reset is no such move. -/
theorem txMoves_of_busy {e : Event} {s t : State} (h : stepEvent e s = .next t) (hreset : e ≠ .reset)
    (hb : s.txState ≠ .idle) : TxMoves e s t :=
  txMoves_of_moves (moves_of_stepEvent h) hreset (noStart_of_busy hb)

/-! ### What the frame still owes -/

theorem pendingEvents_idle {s : State} (h : s.txState = .idle) : pendingEvents s = [] := by rw [pendingEvents, h]

theorem pendingEvents_settle {s : State} (h : s.txState = .settle) : pendingEvents s = [.latch] := by rw [pendingEvents, h]

theorem pendingEvents_drain {s : State} (h : s.txState = .drain) :
    pendingEvents s = (bitsBelow s.shreg s.shcnt.val).map .bit ++ s.fifo.flatMap wordEvents ++
      pixelEvents (s.pb.toList.drop s.txIdx.val) ++ [.latch] := by
  rw [pendingEvents, h]

theorem pendingEvents_same {s t : State} (h : SameFrame s t) : pendingEvents t = pendingEvents s := by
  cases hs : s.txState with
  | idle => rw [pendingEvents_idle hs, pendingEvents_idle (h.txState.trans hs)]
  | settle => rw [pendingEvents_settle hs, pendingEvents_settle (h.txState.trans hs)]
  | drain =>
    rw [pendingEvents_drain hs, pendingEvents_drain (h.txState.trans hs), h.shreg, h.shcnt, h.fifo, h.txIdx, h.pb hs]

/-- The bits left of a word: the one sent next, then the others (42_transmitter.md R108). -/
theorem bitsBelow_of_pos (w : PixelWord) {n : Nat} (h : 0 < n) : bitsBelow w n = w.getLsbD (n - 1) :: bitsBelow w (n - 1) := by
  obtain ⟨k, rfl⟩ := Nat.exists_eq_succ_of_ne_zero h.ne'
  rfl

/-- The pixels not yet pushed: the next one, then the others (42_transmitter.md R105). -/
theorem pixelEvents_drop (pb : Vector Pixel 25) (i : Fin 25) :
    pixelEvents (pb.toList.drop i.val) = wordEvents (pixelWord (readPixel pb i)) ++ pixelEvents (pb.toList.drop i.succ.val) := by
  rw [List.drop_eq_getElem_cons (by simp)]
  rfl

/-- Each move takes from what is owed exactly what it appends to LEDLOG (42_transmitter.md R112). -/
theorem txMoves_pending {e : Event} {s t : State} (h : TxMoves e s t) :
    t.ledLog ++ pendingEvents t = s.ledLog ++ pendingEvents s := by
  cases h with
  | same _ h => rw [h.ledLog, pendingEvents_same h]
  | push hd hi =>
    rw [pendingEvents_drain hd, pendingEvents_drain (s := pushed s hi) hd, pixelEvents_drop s.pb ⟨_, hi⟩]
    simp [pushed]
  | @load _ w rest hd hc hf =>
    rw [pendingEvents_drain hd, pendingEvents_drain (s := loaded s w rest) hd, hc, hf]
    simp [loaded, bitsBelow, wordEvents, wireBits]
  | bit hd hc =>
    rw [pendingEvents_drain hd, pendingEvents_drain (s := bitSent s hc) hd, bitsBelow_of_pos _ hc]
    simp [bitSent]
  | lastBit hd hc h1 hi hf =>
    have hall : s.pb.toList.drop 25 = [] := List.drop_eq_nil_of_le (by simp)
    rw [pendingEvents_drain hd, pendingEvents_settle rfl, h1, hi, hf, hall]
    simp [frameSent, bitSent, bitsBelow, pixelEvents, h1]
  | hold hs =>
    rw [pendingEvents_settle hs, pendingEvents_settle (s := { timeBaseTick s with settleCnt := _ }) (by simpa using hs)]
    simp
  | latch hs =>
    rw [pendingEvents_settle hs, pendingEvents_idle rfl]
    simp

/-- Settles O41: `txMoves_pending` for every move there is. -/
theorem pendingFrameConserved : Obligations.PendingFrameConserved := by
  intro e s t h hreset hstart
  exact txMoves_pending (txMoves_of_moves (moves_of_stepEvent h) hreset hstart)

/-- A run that stays in its frame has sent what was owed at its start, but for what is owed at its end. -/
theorem runEvents_pending {es : List Event} {s t : State} (hin : InFrame es s) (hrun : runEvents es s = .next t) :
    t.ledLog ++ pendingEvents t = s.ledLog ++ pendingEvents s := by
  induction es generalizing s with
  | nil =>
    injection hrun with hrun
    subst hrun
    rfl
  | cons e es ih =>
    obtain ⟨hb, hreset, hnext⟩ := hin
    obtain ⟨u, hu, hrest⟩ := runEvents_cons hrun
    rw [ih (hnext u hu) hrest, txMoves_pending (txMoves_of_busy hu hreset hb)]

/-- A frame that has just begun owes the whole buffer (42_transmitter.md R103, R104). -/
theorem pendingEvents_start {s : State} (hs : BlockInv s) (hi : s.txState = .idle) :
    pendingEvents { s with txState := .drain, txIdx := 0 } = frameEvents s.pb := by
  obtain ⟨hfifo, hshcnt⟩ := hs.quiet (by simp [hi])
  rw [pendingEvents_drain rfl, hfifo, hshcnt]
  rfl

/-- Settles O42: what the frame owes is the frame of the buffer at the START, and nothing at the end. -/
theorem frameLaw : Obligations.FrameLaw := by
  intro s s1 t es hs hi hstart hin hrun ht
  obtain rfl := Host.Outcome.next.inj hstart
  have hpending := runEvents_pending hin hrun
  rwa [pendingEvents_idle ht, List.append_nil, pendingEvents_start hs hi] at hpending

/-! ### The work left -/

theorem workLeft_settle {s : State} (h : s.txState = .settle) : workLeft s = s.settleCnt.val := by rw [workLeft, h]

theorem workLeft_drain {s : State} (h : s.txState = .drain) :
    workLeft s = 26 * (25 - s.txIdx.val) + 25 * s.fifo.length + s.shcnt.val + 100 := by
  rw [workLeft, h]

theorem workLeft_same {s t : State} (h : SameFrame s t) : workLeft t = workLeft s := by
  simp only [workLeft, h.txState, h.txIdx, h.fifo, h.shcnt, h.settleCnt]

/-- Nothing is left to do only in IDLE. -/
theorem txState_of_workLeft_zero {s : State} (hs : BlockInv s) (h : workLeft s = 0) : s.txState = .idle := by
  cases ht : s.txState with
  | idle => rfl
  | settle =>
    obtain ⟨hpos, -⟩ := hs.settle_cnt ht
    rw [workLeft_settle ht] at h
    omega
  | drain =>
    rw [workLeft_drain ht] at h
    omega

/-- A step brings the end one step nearer, or it is none of the frame's and leaves the frame as it is (42_transmitter.md R119). -/
theorem txMoves_workLeft {e : Event} {s t : State} (h : TxMoves e s t) :
    (¬Advances e s ∧ SameFrame s t) ∨ workLeft t + 1 = workLeft s := by
  cases h with
  | same hq h => exact .inl ⟨hq, h⟩
  | push hd hi =>
    right
    rw [workLeft_drain hd, workLeft_drain (s := pushed s hi) hd]
    simp only [pushed, Fin.val_succ, List.length_append, List.length_singleton]
    omega
  | @load _ w rest hd hc hf =>
    right
    rw [workLeft_drain hd, workLeft_drain (s := loaded s w rest) hd, hc, hf, List.length_cons]
    change 26 * (25 - s.txIdx.val) + 25 * rest.length + 24 + 100 + 1 = _
    rw [Fin.val_zero]
    omega
  | bit hd hc =>
    right
    rw [workLeft_drain hd, workLeft_drain (s := bitSent s hc) hd]
    simp only [bitSent, Fin.val_castSucc]
    omega
  | lastBit hd hc h1 hi hf =>
    right
    rw [workLeft_drain hd, workLeft_settle rfl, h1, hi, hf]
    rfl
  | hold hs hc =>
    right
    rw [workLeft_settle hs, workLeft_settle (s := { timeBaseTick s with settleCnt := _ }) (by simpa using hs)]
    exact Nat.sub_add_cancel (Nat.le_of_lt hc)
  | latch hs hc =>
    right
    rw [workLeft_settle hs, hc]
    rfl

/-- In a frame TXS has a bit or a word to send, or else the queue is empty and TXD has a pixel to push; in a hold TMR has a tick
to count (42_transmitter.md R119). -/
theorem exists_advances {s : State} (hs : BlockInv s) (hb : s.txState ≠ .idle) :
    ∃ e ∈ [Event.txd, .txs, .tick], Advances e s := by
  have hr := running_of_busy hs hb
  cases ht : s.txState with
  | idle => exact absurd ht hb
  | settle => exact ⟨.tick, by simp, rfl, .inr (.inr ⟨rfl, ht⟩)⟩
  | drain =>
    by_cases hc : 0 < s.shcnt.val
    · have hbit : s.bitEnabled = true := (bitEnabled_iff s).mpr ⟨hr, ht, hc⟩
      exact ⟨.txs, by simp, by simp [enabled, hbit], .inr (.inl rfl)⟩
    · by_cases hf : s.fifo = []
      · have hi : s.txIdx.val < 25 := by simpa [hc, hf] using hs.drain_work ht
        have htxd : s.txdEnabled = true := (txdEnabled_iff s).mpr ⟨hr, ht, hi, by simp [hf, Config.fifoDepth]⟩
        exact ⟨.txd, by simp, htxd, .inl rfl⟩
      · have hload : s.loadEnabled = true := (loadEnabled_iff s).mpr ⟨hr, ht, Fin.ext (Nat.eq_zero_of_not_pos hc), hf⟩
        exact ⟨.txs, by simp, by simp [enabled, hload], .inr (.inl rfl)⟩

/-- An event that brings the frame forward still does while the frame stands still. -/
theorem advances_same {e : Event} {s t : State} (h : SameFrame s t) (hr : t.running = s.running) (ha : Advances e s) :
    Advances e t := by
  obtain ⟨he, rfl | rfl | ⟨rfl, hs⟩⟩ := ha
  · refine ⟨?_, .inl rfl⟩
    rwa [enabled, State.txdEnabled, hr, h.txState, h.txIdx, h.fifo]
  · refine ⟨?_, .inr (.inl rfl)⟩
    rwa [enabled, State.bitEnabled, State.loadEnabled, hr, h.txState, h.shcnt, h.fifo]
  · exact ⟨rfl, .inr (.inr ⟨rfl, h.txState.trans hs⟩)⟩

/-- A step that brings the frame forward goes on, and lowers the work left by one. -/
theorem advances_step {e : Event} {s : State} (hs : BlockInv s) (hb : s.txState ≠ .idle) (hreset : e ≠ .reset)
    (ha : Advances e s) : ∃ t, stepEvent e s = .next t ∧ workLeft t + 1 = workLeft s := by
  obtain ⟨t, ht⟩ := stepEvent_goes_on e s fun _ hsettle => (hs.settle_cnt hsettle).1
  rcases txMoves_workLeft (txMoves_of_busy ht hreset hb) with ⟨hq, -⟩ | hw
  · exact absurd ha hq
  · exact ⟨t, ht, hw⟩

theorem ne_reset_of_mem {e : Event} (h : e ∈ [Event.txd, .txs, .tick]) : e ≠ .reset := by
  rintro rfl
  simp at h

theorem ne_host_of_mem {e : Event} (h : e ∈ [Event.txd, .txs, .tick]) : e ≠ .host := by
  rintro rfl
  simp at h

/-! ### Fair runs -/

theorem endlessRun_blockInv {ev : Nat → Event} {st : Nat → State} (hrun : EndlessRun ev st) (h0 : BlockInv (st 0)) (n : Nat) :
    BlockInv (st n) := by
  induction n with
  | zero => exact h0
  | succ n ih =>
    obtain ⟨script, freeCount, hstep⟩ := hrun n
    exact blockInv_stepEvent (ih.schedule script freeCount) hstep

/-- A step of an endless run inside a frame: LEDLOG grows by what the frame no longer owes, and the end comes nearer or the frame
stands still. -/
theorem endlessRun_busy {ev : Nat → Event} {st : Nat → State} {n : Nat} (hrun : EndlessRun ev st) (hreset : ev n ≠ .reset)
    (hb : (st n).txState ≠ .idle) :
    (st (n + 1)).ledLog ++ pendingEvents (st (n + 1)) = (st n).ledLog ++ pendingEvents (st n) ∧
      ((¬Advances (ev n) (st n) ∧ SameFrame (st n) (st (n + 1))) ∨ workLeft (st (n + 1)) + 1 = workLeft (st n)) := by
  obtain ⟨script, freeCount, hstep⟩ := hrun n
  have hmove := txMoves_of_busy hstep hreset hb
  have hpending := txMoves_pending hmove
  refine ⟨hpending, ?_⟩
  rcases txMoves_workLeft hmove with ⟨hq, hsame⟩ | hw
  · exact .inl ⟨fun ha => hq ⟨(enabled_schedule _ _ _ _).trans ha.1, ha.2⟩, { hsame with pb := hsame.pb }⟩
  · exact .inr hw

/-- As long as the frame of a run has not ended, the run has sent what was owed at its start, but for what is still owed. -/
theorem endlessRun_pending {ev : Nat → Event} {st : Nat → State} (hrun : EndlessRun ev st) (hreset : ∀ n, ev n ≠ .reset)
    (n : Nat) (hb : ∀ m < n, (st m).txState ≠ .idle) :
    (st n).ledLog ++ pendingEvents (st n) = (st 0).ledLog ++ pendingEvents (st 0) := by
  induction n with
  | zero => rfl
  | succ n ih =>
    rw [(endlessRun_busy hrun (hreset n) (hb n n.lt_succ_self)).1, ih fun m hm => hb m (Nat.lt_succ_of_lt hm)]

theorem weaklyFair_of_mem {e : Event} {ev : Nat → Event} {st : Nat → State} (hfair : FairRun ev st)
    (he : e ∈ [Event.txd, .txs, .tick]) : WeaklyFair e ev st := by
  simp only [List.mem_cons, List.not_mem_nil, or_false] at he
  rcases he with rfl | rfl | rfl
  · exact hfair.txd
  · exact hfair.txs
  · exact hfair.tmr

/-- In a fair run without reset the frame ends. Otherwise take a state from which the work left never falls: the frame stands
still from there on, so the step that would bring it forward stays enabled, happens, and lowers the work left. -/
theorem fairRun_reaches_idle {ev : Nat → Event} {st : Nat → State} (hfair : FairRun ev st) (h0 : BlockInv (st 0))
    (hreset : ∀ n, ev n ≠ .reset) : ∃ n, (st n).txState = .idle := by
  by_contra hnever
  have hbusy (n : Nat) : (st n).txState ≠ .idle := fun h => hnever ⟨n, h⟩
  have hinv := endlessRun_blockInv hfair.run h0
  have hrunning (n : Nat) : (st n).running = true := running_of_busy (hinv n) (hbusy n)
  obtain ⟨N, hmin⟩ : ∃ N, ∀ m, workLeft (st N) ≤ workLeft (st m) :=
    ⟨Function.argmin fun n => workLeft (st n), fun m => Function.argmin_le (fun n => workLeft (st n)) m⟩
  obtain ⟨e, he, ha⟩ := exists_advances (hinv N) (hbusy N)
  have hstill : ∀ m ≥ N, workLeft (st m) = workLeft (st N) ∧ Advances e (st m) := by
    intro m hm
    induction m, hm using Nat.le_induction with
    | base => exact ⟨rfl, ha⟩
    | succ m hm ih =>
      obtain ⟨hwork, ham⟩ := ih
      rcases (endlessRun_busy hfair.run (hreset m) (hbusy m)).2 with ⟨-, hsame⟩ | hlower
      · exact ⟨(workLeft_same hsame).trans hwork, advances_same hsame ((hrunning _).trans (hrunning _).symm) ham⟩
      · have := hmin (m + 1)
        omega
  obtain ⟨m, hm, hev⟩ := weaklyFair_of_mem hfair he N fun m hm => (hstill m hm).2.1
  obtain ⟨hwork, ham⟩ := hstill m hm
  rcases (endlessRun_busy hfair.run (hreset m) (hbusy m)).2 with ⟨hq, -⟩ | hlower
  · rw [hev] at hq
    exact hq ham
  · have := hmin (m + 1)
    omega

/-- The frame in progress completes in every fair run without reset, with exactly what it owed appended to LEDLOG. -/
theorem fairRun_completes {ev : Nat → Event} {st : Nat → State} (hfair : FairRun ev st) (h0 : BlockInv (st 0))
    (hreset : ∀ n, ev n ≠ .reset) :
    ∃ n, (st n).txState = .idle ∧ (st n).ledLog = (st 0).ledLog ++ pendingEvents (st 0) := by
  classical
  have hends := fairRun_reaches_idle hfair h0 hreset
  have hidle := Nat.find_spec hends
  have hpending := endlessRun_pending hfair.run hreset (Nat.find hends) fun m hm => Nat.find_min hends hm
  rw [pendingEvents_idle hidle, List.append_nil] at hpending
  exact ⟨_, hidle, hpending⟩

/-- Settles O43: the work left as the measure, `fairRun_completes` for the endless runs. -/
theorem frameMakesProgress : Obligations.FrameMakesProgress := by
  refine ⟨fun s hs hb => ⟨?_, fun e t hreset h => ?_⟩, fun ev st hfair h0 _ hreset => fairRun_completes hfair h0 hreset,
    fun s => ⟨_, stepEvent_of_enabled rfl, rfl, rfl⟩⟩
  · obtain ⟨e, he, ha⟩ := exists_advances hs hb
    obtain ⟨t, ht, hw⟩ := advances_step hs hb (ne_reset_of_mem he) ha
    exact ⟨e, he, t, ha.1, ht, hw⟩
  · rcases txMoves_workLeft (txMoves_of_busy h hreset hb) with ⟨-, hsame⟩ | hw
    · exact (workLeft_same hsame).le
    · omega

/-! ### A schedule that completes the frame -/

/-- TXD, TXS and TMR only read the buffer (42_transmitter.md R117). -/
theorem stepEvent_pb {e : Event} {s t : State} (he : e ∈ [Event.txd, .txs, .tick]) (h : stepEvent e s = .next t) :
    t.pb = s.pb :=
  (Memory.moves_hostRegisters (moves_of_stepEvent h) (ne_host_of_mem he) (ne_reset_of_mem he)).1

/-- As many steps of TXD, TXS and TMR as there is work left end the frame. -/
theorem exists_run_completing (n : Nat) (s : State) (hs : BlockInv s) (hn : workLeft s = n) :
    ∃ es t, es.length = n ∧ (∀ e ∈ es, e ∈ [Event.txd, .txs, .tick]) ∧ runEvents es s = .next t ∧
      t.txState = .idle ∧ t.ledLog = s.ledLog ++ pendingEvents s ∧ t.pb = s.pb := by
  induction n generalizing s with
  | zero =>
    have hidle := txState_of_workLeft_zero hs hn
    exact ⟨[], s, rfl, nofun, rfl, hidle, by rw [pendingEvents_idle hidle, List.append_nil], rfl⟩
  | succ n ih =>
    have hb : s.txState ≠ .idle := fun hi => by
      rw [workLeft, hi] at hn
      cases hn
    obtain ⟨e, he, ha⟩ := exists_advances hs hb
    obtain ⟨u, hu, hw⟩ := advances_step hs hb (ne_reset_of_mem he) ha
    obtain ⟨es, t, hlen, hes, hrun, hidle, hlog, hpb⟩ := ih u (blockInv_stepEvent hs hu) (by omega)
    refine ⟨e :: es, t, by rw [List.length_cons, hlen], List.forall_mem_cons.mpr ⟨he, hes⟩, ?_, hidle, ?_,
      hpb.trans (stepEvent_pb he hu)⟩
    · rw [runEvents, hu]
      exact hrun
    · rw [hlog, txMoves_pending (txMoves_of_busy hu (ne_reset_of_mem he) hb)]

/-- Settles O44: the work left after a START is 25 pushes, 25 loads, 600 bits and 100 ticks. -/
theorem frameCanComplete : Obligations.FrameCanComplete := by
  intro s s1 hs hr hi hstart
  obtain rfl := Host.Outcome.next.inj hstart
  have hwork : workLeft { s with txState := .drain, txIdx := 0 } = 750 := by
    obtain ⟨hfifo, hshcnt⟩ := hs.quiet (by simp [hi])
    rw [workLeft_drain rfl, hfifo, hshcnt]
    rfl
  obtain ⟨es, t, hlen, hes, hrun, hidle, hlog, hpb⟩ := exists_run_completing 750 _ (blockInv_start hs hr hi) hwork
  rw [pendingEvents_start hs hi] at hlog
  exact ⟨es, t, hlen, hes, hrun, hidle, hlog, hpb⟩

/-! ### The hold -/

/-- Outside a hold a tick leaves the transmitter alone (42_transmitter.md R114). -/
theorem stepEvent_tick_outside {s t : State} (h : stepEvent .tick s = .next t) (hs : s.txState ≠ .settle) :
    t.txState = s.txState ∧ t.settleCnt = s.settleCnt ∧ t.ledLog = s.ledLog := by
  rw [stepEvent_tick hs] at h
  obtain rfl := Host.Outcome.next.inj h
  simp

/-- In a hold a tick counts one down, and the last one latches (42_transmitter.md R114). -/
theorem stepEvent_tick_hold {s t : State} (h : stepEvent .tick s = .next t) (hs : s.txState = .settle) :
    t.settleCnt.val = s.settleCnt.val - 1 ∧ (s.settleCnt.val = 1 → t.txState = .idle ∧ t.ledLog = s.ledLog ++ [.latch]) ∧
      (s.settleCnt.val ≠ 1 → t.txState = .settle ∧ t.ledLog = s.ledLog) := by
  cases txMoves_of_busy h nofun (by simp [hs]) with
  | same hq => exact absurd ⟨rfl, .inr (.inr ⟨rfl, hs⟩)⟩ hq
  | hold _ hc => exact ⟨rfl, fun h1 => by omega, fun _ => by simp [hs]⟩
  | latch _ hc => exact ⟨by simp [hc], fun _ => ⟨rfl, rfl⟩, fun hn => absurd hc hn⟩

/-- No event but a tick and reset touches a hold. -/
theorem stepEvent_hold_other {e : Event} {s t : State} (h : stepEvent e s = .next t) (hs : s.txState = .settle)
    (hreset : e ≠ .reset) (htick : e ≠ .tick) : SameFrame s t := by
  cases txMoves_of_busy h hreset (by simp [hs]) with
  | same _ hsame => exact hsame
  | push hd | load hd | bit hd | lastBit hd => exact nomatch hs.symm.trans hd
  | hold | latch => exact absurd rfl htick

/-- One event of a hold that a tick would not end. -/
theorem stepEvent_hold {e : Event} {s : State} (hs : s.txState = .settle) (hreset : e ≠ .reset)
    (hc : (if e = .tick then 1 else 0) < s.settleCnt.val) : ∃ t, stepEvent e s = .next t ∧ t.txState = .settle ∧
      t.ledLog = s.ledLog ∧ t.settleCnt.val + (if e = .tick then 1 else 0) = s.settleCnt.val := by
  obtain ⟨t, ht⟩ := stepEvent_goes_on e s fun _ _ => Nat.zero_lt_of_lt hc
  refine ⟨t, ht, ?_⟩
  by_cases he : e = .tick
  · subst he
    rw [if_pos rfl] at hc ⊢
    obtain ⟨hcnt, -, hgo⟩ := stepEvent_tick_hold ht hs
    obtain ⟨hsettle, hlog⟩ := hgo (by omega)
    exact ⟨hsettle, hlog, by omega⟩
  · have hsame := stepEvent_hold_other ht hs hreset he
    rw [if_neg he]
    exact ⟨hsame.txState.trans hs, hsame.ledLog, by rw [hsame.settleCnt, Nat.add_zero]⟩

/-- A hold lasts through every run without reset that has fewer ticks than SETTLE_CNT (42_transmitter.md R114). -/
theorem runEvents_hold {es : List Event} {s : State} (hs : s.txState = .settle) (hc : tickCount es < s.settleCnt.val)
    (hes : ∀ e ∈ es, e ≠ .reset) : ∃ t, runEvents es s = .next t ∧ t.txState = .settle ∧ t.ledLog = s.ledLog ∧
      t.settleCnt.val + tickCount es = s.settleCnt.val := by
  induction es generalizing s with
  | nil => exact ⟨s, rfl, hs, rfl, rfl⟩
  | cons e es ih =>
    obtain ⟨hreset, hrest⟩ := List.forall_mem_cons.mp hes
    rw [tickCount_cons] at hc ⊢
    obtain ⟨u, hu, husettle, hulog, hucnt⟩ := stepEvent_hold hs hreset (e := e) (by omega)
    obtain ⟨t, hrun, htsettle, htlog, htcnt⟩ := ih husettle (by omega) hrest
    refine ⟨t, ?_, htsettle, htlog.trans hulog, by omega⟩
    rw [runEvents, hu]
    exact hrun

/-- The tick at SETTLE_CNT = 1 ends the hold with Latch (42_transmitter.md R114). -/
theorem stepEvent_tick_latch {s : State} (hs : s.txState = .settle) (hc : s.settleCnt.val = 1) :
    ∃ t, stepEvent .tick s = .next t ∧ t.txState = .idle ∧ t.ledLog = s.ledLog ++ [.latch] := by
  obtain ⟨t, ht⟩ := stepEvent_goes_on .tick s fun _ _ => by omega
  obtain ⟨-, hlast, -⟩ := stepEvent_tick_hold ht hs
  exact ⟨t, ht, hlast hc⟩

/-- The step that enters the hold loads the whole SETTLE_US (42_transmitter.md R108). -/
theorem settleCnt_of_enter {s t : State} (hd : s.txState = .drain) (h : stepEvent .txs s = .next t)
    (ht : t.txState = .settle) : t.settleCnt.val = 100 := by
  cases txMoves_of_busy h nofun (by simp [hd]) with
  | same _ hsame => exact nomatch hd.symm.trans (hsame.txState.symm.trans ht)
  | load | bit => exact nomatch hd.symm.trans ht
  | lastBit => rfl

/-- Settles O48: a tick by `stepEvent_tick_outside` and `stepEvent_tick_hold`, a run by `runEvents_hold`, and in FATAL the block
does not run, so it is in no hold. -/
theorem settleHoldCountsTicks : Obligations.SettleHoldCountsTicks := by
  refine ⟨fun s t h => ⟨stepEvent_tick_outside h, stepEvent_tick_hold h⟩, fun es s hs hc hes => ?_,
    fun s t => settleCnt_of_enter, fun s hs hf => ?_⟩
  · obtain ⟨t, hrun, hsettle, hlog, hcnt⟩ := runEvents_hold hs hc hes
    refine ⟨⟨t, hrun, hsettle, hlog, hcnt⟩, fun hlast => ?_⟩
    obtain ⟨u, hu, hidle, hulog⟩ := stepEvent_tick_latch hsettle (by omega)
    refine ⟨u, ?_, hidle, by rw [hulog, hlog]⟩
    rw [runEvents_append hrun, runEvents, hu]
    rfl
  · exact txState_of_dormant (hs.dormant ((running_false_iff s).mpr (.inr hf)))

/-! ### What the transmitter leaves alone, and what leaves it alone -/

/-- TXD, TXS and TMR are no samples. -/
theorem transmitter_debUnits {e : Event} {s t : State} (he : e ∈ [Event.txd, .txs, .tick]) (h : Moves e s t) :
    t.deb0 = s.deb0 ∧ t.deb1 = s.deb1 := by
  cases h with
  | stall | txd | load | bit | lastBit => exact ⟨rfl, rfl⟩
  | tick | tickHold | tickLatch => rw [timeBaseTick_frame]; exact ⟨rfl, rfl⟩
  | _ => simp at he

/-- Settles O46: the commands' registers and the error registers are written by HOST and reset alone, the debounce registers by no
step of the transmitter. -/
theorem transmitterOnlyReadsBuffer : Obligations.TransmitterOnlyReadsBuffer := by
  intro e he s t h
  have hm := moves_of_stepEvent h
  have hhost := ne_host_of_mem he
  obtain ⟨hpb, hcolor, hidx, hrdata⟩ := Memory.moves_hostRegisters hm hhost (ne_reset_of_mem he)
  obtain ⟨hdeb0, hdeb1⟩ := transmitter_debUnits he hm
  rcases Registers.moves_error hm (ne_reset_of_mem he) with ⟨herr, hcode⟩ | ⟨hh, -⟩
  · exact ⟨hpb, hcolor, hidx, hrdata, herr, hcode, hdeb0, hdeb1⟩
  · exact absurd hh hhost

/-- TX_IDX stands still but for a TXD push, which advances it by one (42_transmitter.md R105, R118). -/
theorem txMoves_txIdx {e : Event} {s t : State} (h : TxMoves e s t) :
    t.txIdx = s.txIdx ∨ (e = .txd ∧ t.txIdx.val = s.txIdx.val + 1) := by
  cases h with
  | same _ hsame => exact .inl hsame.txIdx
  | push => exact .inr ⟨rfl, rfl⟩
  | load | bit | lastBit => exact .inl rfl
  | hold | latch => left; rw [timeBaseTick_frame]

/-- Settles O45: a frame begins in IDLE only, and `txMoves_txIdx`. -/
theorem oneFrameInFlight : Obligations.OneFrameInFlight := by
  intro e s t h hreset hb
  have hdrain : t.txState = .drain → s.txState = .drain := fun hd => by
    rcases Buffer.moves_to_drain (moves_of_stepEvent h) hd with hs | ⟨-, hi, -⟩
    · exact hs
    · exact absurd hi hb
  rcases txMoves_txIdx (txMoves_of_busy h hreset hb) with hidx | ⟨he, hidx⟩
  · exact ⟨hdrain, by rw [hidx], by rw [hidx]; exact Nat.le_succ _, fun hne => absurd hidx hne, fun _ _ => start_held hb⟩
  · exact ⟨hdrain, by omega, by omega, fun _ => he, fun _ _ => start_held hb⟩

/-- No command touches the channel (42_transmitter.md R116). -/
theorem exec_channel {i : Instr} {s t : State} (h : exec i s = .next t) : t.chOk = s.chOk ∧ t.chBank = s.chBank := by
  rcases exec_cases i s with ⟨-, hx⟩ | hx | ⟨_, hx⟩ | ⟨_, hx⟩ | ⟨_, hx⟩ | ⟨_, hx⟩ | ⟨_, hx⟩ <;>
    obtain rfl := Host.Outcome.next.inj (hx.symm.trans h) <;> exact ⟨rfl, rfl⟩

/-- Only INIT, which happens once, and reset write the channel fields (10_state.md R30). -/
theorem moves_channel {e : Event} {s t : State} (h : Moves e s t) (hreset : e ≠ .reset) (hi : s.initDone = true) :
    t.chOk = s.chOk ∧ t.chBank = s.chBank := by
  cases h with
  | reset => exact absurd rfl hreset
  | init hn =>
    rw [hi] at hn
    cases hn
  | @host _ _ rest _ _ _ hx => exact exec_channel (s := { s with cmdQ := rest }) hx
  | tick | tickHold | tickLatch => rw [timeBaseTick_frame]; exact ⟨rfl, rfl⟩
  | debQuiet | debAccept | button => simp
  | _ => exact ⟨rfl, rfl⟩

/-- A block that does not run begins no frame (10_state.md R43). -/
theorem noStart_of_not_running {e : Event} {s : State} (hr : s.running = false) : NoStart e s := by
  intro _ w _ _
  by_contra hready
  obtain ⟨hrun, -⟩ := (cmdReady_iff w s).mp (by simpa using hready)
  rw [hr] at hrun
  cases hrun

/-- Settles O49: the fields by `moves_channel`; without a channel the block does not run, so it is dormant and no move of a frame
applies. -/
theorem channelFixedUntilReset : Obligations.ChannelFixedUntilReset := by
  intro e s t h hreset
  have hm := moves_of_stepEvent h
  refine ⟨moves_channel hm hreset, fun hs hok => ?_⟩
  have hr : s.running = false := hs.chOk_iff.symm.trans hok
  have hdormant := hs.dormant hr
  have hidle := txState_of_dormant hdormant
  cases txMoves_of_moves hm hreset (noStart_of_not_running hr) with
  | same _ hsame => exact ⟨hsame.ledLog.trans (ledLog_of_dormant hdormant), hsame.txState.trans hidle⟩
  | push hd | load hd | bit hd | lastBit hd => exact nomatch hidle.symm.trans hd
  | hold hsettle | latch hsettle => exact nomatch hidle.symm.trans hsettle

/-! ### START and INIT -/

/-- START is accepted in IDLE alone (10_state.md R43, 42_transmitter.md R103). -/
theorem cmdReady_start {w : Word} (hw : w.toNat / 2 ^ 28 = 5) (s : State) :
    s.cmdReady w = true ↔ s.initDone = true ∧ s.fatal = false ∧ s.txState = .idle := by
  have hop : opField w = 0x5#4 := (Registers.opField_eq_five w).mpr hw
  rw [cmdReady_iff, running_iff, and_assoc]
  cases s.txState <;> simp [hop]

/-- Settles O20: the decoder's row, `cmdReady_start`, and a held HOST step, which changes nothing. -/
theorem startBeginsFrame : Obligations.StartBeginsFrame := by
  refine ⟨fun w => Encoding.decode_start, fun w s hw => cmdReady_start hw s, fun w rest s t hw hq hb => ?_, fun s => ⟨rfl, ?_⟩⟩
  · have hheld : enabled .host s = false := by
      rw [Registers.enabled_host_cons hq]
      exact start_held hb (Encoding.decode_start hw)
    refine ⟨hheld, fun h => ?_⟩
    rw [stepEvent_of_disabled hheld] at h
    obtain rfl := Host.Outcome.next.inj h
    exact hq
  · exact (Registers.status_flags _).1

/-- Settles O32: the INIT step is `acquireChannel` for the banks there are, and is enabled until INIT_DONE is set. -/
theorem initAcquiresChannel : Obligations.InitAcquiresChannel := by
  refine ⟨fun s hi => ?_, fun s hi => ?_, by decide⟩
  · rw [stepEvent_of_enabled (by rw [enabled, hi]; rfl)]
    rfl
  · rw [enabled, hi]
    rfl

/-! ### TXD -/

theorem stepEvent_txd {s : State} (he : enabled .txd s = true) (hi : s.txIdx.val < 25) :
    stepEvent .txd s = .next (pushed s hi) := by
  rw [stepEvent_of_enabled he, fire, txdStep, dif_pos hi]
  rfl

/-- Settles O33: `txdEnabled_iff`, and the pushed word is that of the pixel at TX_IDX. -/
theorem txdPushesNextPixel : Obligations.TxdPushesNextPixel := by
  refine ⟨fun s => ?_, fun s hi he => ⟨_, stepEvent_txd he hi, rfl, rfl, rfl⟩, fun s hfull => ?_⟩
  · rw [enabled, txdEnabled_iff, running_iff, and_assoc]
  · by_contra hn
    obtain ⟨-, -, -, hroom⟩ := (txdEnabled_iff s).mp (by simpa [enabled] using hn)
    omega

/-! ### TXS -/

/-- Settles O34: with SHCNT = 0 the bit step is not enabled, so TXS is the load step. -/
theorem txsLoadsHead : Obligations.TxsLoadsHead := by
  refine ⟨fun s => by rw [loadEnabled_iff, running_iff, and_assoc], fun s w rest hload hf => ?_⟩
  obtain ⟨-, -, hc, -⟩ := (loadEnabled_iff s).mp hload
  have hbit : s.bitEnabled = false := by simp [State.bitEnabled, hc]
  rw [stepEvent_of_enabled (by simp [enabled, hload])]
  simp [fire, txsStep, hbit, loadStep, hf]

theorem stepEvent_bit {s : State} (hb : s.bitEnabled = true) (hc : 0 < s.shcnt.val) : stepEvent .txs s =
    .next (if s.shcnt.val = 1 ∧ s.txIdx.val = 25 ∧ s.fifo = [] then frameSent s hc else bitSent s hc) := by
  rw [stepEvent_of_enabled (by simp [enabled, hb]), fire, txsStep, if_pos hb, bitStep_eq s hc]
  rfl

/-- With everything pushed and the queue empty, SHREG holds the word of pixel 24, since words are pushed and popped in order
(42_transmitter.md R108). -/
theorem shreg_of_last {s : State} (hs : BlockInv s) (hd : s.txState = .drain) (hc : 0 < s.shcnt.val) (hi : s.txIdx.val = 25)
    (hf : s.fifo = []) : s.shreg = pixelWord (readPixel s.pb 24) := by
  obtain ⟨k, hk, hqueue, hshreg⟩ := hs.drain_queue hd
  obtain ⟨-, hword⟩ := hshreg hc
  rw [hf, eq_comm, List.drop_eq_nil_iff, List.length_take, length_frameWords] at hqueue
  obtain rfl : k = 25 := by omega
  rw [getElem_frameWords _ _ (by decide)] at hword
  exact (Option.some.inj hword).symm

/-- Settles O35: the bit step by whether it is the last, and the last one by `shreg_of_last`. -/
theorem txsSendsBit : Obligations.TxsSendsBit := by
  refine ⟨fun s => by rw [bitEnabled_iff, running_iff, and_assoc], fun s hb => ?_, fun s t hs hd h ht => ?_⟩
  · obtain ⟨-, hd, hc⟩ := (bitEnabled_iff s).mp hb
    refine ⟨_, stepEvent_bit hb hc, ?_⟩
    by_cases hlast : s.shcnt.val = 1 ∧ s.txIdx.val = 25 ∧ s.fifo = []
    · rw [if_pos hlast]
      exact ⟨rfl, rfl, fun _ => ⟨rfl, rfl⟩, fun hn => absurd hlast hn, rfl⟩
    · rw [if_neg hlast]
      exact ⟨rfl, rfl, fun hl => absurd hl hlast, fun _ => ⟨hd, rfl⟩, rfl⟩
  · cases txMoves_of_busy h nofun (by simp [hd]) with
    | same _ hsame => exact nomatch hd.symm.trans (hsame.txState.symm.trans ht)
    | load | bit => exact nomatch hd.symm.trans ht
    | lastBit _ hc h1 hi hf => exact ⟨shreg_of_last hs hd hc hi hf, by simp [frameSent, bitSent, h1]⟩

/-! ### The line -/

/-- The bits of a pixel on the line (42_transmitter.md R109). -/
theorem wireBits_pixelWord (p : Pixel) : wireBits (pixelWord p) = byteBits p.g ++ byteBits p.r ++ byteBits p.b := by
  simp only [wireBits, bitsBelow, pixelWord, byteBits, BitVec.getLsbD_append, Nat.reduceLT, Nat.reduceSub, reduceIte,
    List.cons_append, List.nil_append]

/-- Settles O37: `pixelWord_toNat` and `wireBits_pixelWord`. -/
theorem pixelBitsInWireOrder : Obligations.PixelBitsInWireOrder := fun p => ⟨pixelWord_toNat p, wireBits_pixelWord p⟩

/-- The bytes of a pixel in wire order (42_transmitter.md R115). -/
def pixelBytes (p : Pixel) : List Byte := [p.g, p.r, p.b]

theorem frameBytes_eq (pb : Vector Pixel 25) : frameBytes pb = pb.toList.flatMap pixelBytes := rfl

/-- The i-th triple of the bytes of some pixels is that of the i-th pixel. -/
theorem triple_flatMap_pixelBytes (ps : List Pixel) (i : Nat) (hi : i < ps.length) :
    ((ps.flatMap pixelBytes).drop (3 * i)).take 3 = pixelBytes ps[i] := by
  induction ps generalizing i with
  | nil => cases hi
  | cons p ps ih =>
    cases i with
    | zero => rfl
    | succ i => exact ih i (Nat.lt_of_succ_lt_succ hi)

theorem wordEvents_pixelWord (p : Pixel) : wordEvents (pixelWord p) = ((pixelBytes p).flatMap byteBits).map .bit := by
  rw [wordEvents, wireBits_pixelWord]
  simp [pixelBytes]

/-- The bits of a frame are those of its bytes (42_transmitter.md R115). -/
theorem pixelEvents_eq_bytes (ps : List Pixel) :
    pixelEvents ps = ((ps.flatMap pixelBytes).flatMap byteBits).map .bit := by
  rw [List.flatMap_assoc, List.map_flatMap, pixelEvents]
  simp only [wordEvents_pixelWord]

theorem length_pixelEvents (ps : List Pixel) : (pixelEvents ps).length = 24 * ps.length := by
  simp [pixelEvents, List.length_flatMap, wordEvents, wireBits, bitsBelow, Nat.mul_comm]

/-- Settles O38: `triple_flatMap_pixelBytes`, `pixelEvents_eq_bytes` and `length_pixelEvents` for the 25 pixels of a buffer. -/
theorem frameIsSeventyFiveBytes : Obligations.FrameIsSeventyFiveBytes := by
  intro pb
  refine ⟨?_, fun i => ?_, ?_, ?_⟩
  · simp [frameBytes, List.length_flatMap]
  · rw [frameBytes_eq, triple_flatMap_pixelBytes _ _ (by simp)]
    rfl
  · rw [frameEvents, pixelEvents_eq_bytes, frameBytes_eq]
  · simp [frameEvents, length_pixelEvents]

/-- No symbol is high for longer than its period (42_transmitter.md R110). -/
theorem highNs_le (b : Bool) : highNs b ≤ Config.tBitNs := by
  cases b with
  | false => exact Nat.le_of_lt_succ Config.t0hNs.isLt
  | true => exact Nat.le_of_lt_succ Config.t1hNs.isLt

/-- Settles O39: the low segment is the rest of the period, by `highNs_le`. -/
theorem symbolFillsOnePeriod : Obligations.SymbolFillsOnePeriod :=
  ⟨rfl, fun b => ⟨_, _, rfl, Nat.add_sub_of_le (highNs_le b), rfl⟩⟩

end Sys2Proof.Proofs.Transmitter
end

section
/-! PROOF. The statements about the time base and the debounced buttons (43_debounce.md): what a tick does and how ticks add up
(R121), what one sample does (R124 to R130), what a held line yields (R125), that the buttons are independent of each other and
of the matrix (R133, R135), and that a toggle follows its accepted edges (R134). -/

namespace Sys2Proof.Proofs.Debounce

open Sys2Proof Sys2Proof.Machine Sys2Proof.Proofs

/-! ### The time base -/

/-- Beside the transmitter's part a tick writes the time base alone (43_debounce.md R121, 42_transmitter.md R114). -/
theorem moves_tick_frame {s t : State} (h : Moves .tick s t) : t = { s with
    usPresc := t.usPresc, nowMs := t.nowMs, txState := t.txState, settleCnt := t.settleCnt, ledLog := t.ledLog } := by
  cases h with
  | stall => rfl
  | tick | tickHold | tickLatch => rw [timeBaseTick_frame]

/-- The time base as one number: the microseconds it shows. -/
def clockUs (s : State) : Nat := 1000 * s.nowMs.toNat + s.usPresc.val

/-- A tick is one microsecond more, modulo the range of the time base (43_debounce.md R121). -/
theorem clockUs_timeBaseTick (s : State) : clockUs (timeBaseTick s) = (clockUs s + 1) % (1000 * 2 ^ 32) := by
  have hp := s.usPresc.isLt
  have hn := s.nowMs.isLt
  rw [clockUs, clockUs, timeBaseTick_usPresc, timeBaseTick_nowMs]
  by_cases h999 : s.usPresc.val = 999
  · have hone : (1 : BitVec 32).toNat = 1 := rfl
    rw [if_pos h999, BitVec.toNat_add, hone]
    omega
  · rw [if_neg h999]
    omega

/-- Ticks alone move the time base (43_debounce.md R121, R122). -/
theorem clockUs_stepEvent {e : Event} {s t : State} (h : stepEvent e s = .next t) (hne : e ≠ .reset) :
    clockUs t = (clockUs s + if e = .tick then 1 else 0) % (1000 * 2 ^ 32) := by
  obtain ⟨htick, hstill⟩ := moves_time (moves_of_stepEvent h) hne
  by_cases he : e = .tick
  · obtain ⟨hp, hm⟩ := htick he
    rw [if_pos he, ← clockUs_timeBaseTick, clockUs, clockUs, hp, hm]
  · obtain ⟨hp, hm⟩ := hstill he
    have hsame : clockUs t = clockUs s := by rw [clockUs, clockUs, hp, hm]
    have hlt : clockUs s < 1000 * 2 ^ 32 := by
      have := s.usPresc.isLt
      have := s.nowMs.isLt
      rw [clockUs]
      omega
    rw [if_neg he, hsame, Nat.add_zero, Nat.mod_eq_of_lt hlt]

/-- Over a run without reset the time base goes up by the ticks of the run. -/
theorem clockUs_runEvents {es : List Event} {s t : State} (hes : ∀ e ∈ es, e ≠ .reset) (hrun : runEvents es s = .next t) :
    clockUs t % (1000 * 2 ^ 32) = (clockUs s + tickCount es) % (1000 * 2 ^ 32) := by
  induction es generalizing s with
  | nil =>
    obtain rfl := Host.Outcome.next.inj hrun
    rfl
  | cons e es ih =>
    obtain ⟨hne, hrest⟩ := List.forall_mem_cons.mp hes
    obtain ⟨u, hu, hrun'⟩ := runEvents_cons hrun
    rw [ih hrest hrun', clockUs_stepEvent hu hne, tickCount_cons, Nat.mod_add_mod, Nat.add_assoc]

/-- Settles O36: one tick by `moves_time` and `moves_tick_frame`; a run by `clockUs_runEvents`, whose number is read back as
milliseconds and microseconds. -/
theorem tickAdvancesTimeBase : Obligations.TickAdvancesTimeBase := by
  refine ⟨fun _ => rfl, fun s hcount => ?_, fun es s t hp hm hes hrun => ?_⟩
  · obtain ⟨t, ht⟩ := stepEvent_goes_on .tick s fun _ hs => hcount.resolve_left (absurd hs)
    have hmoves := moves_of_stepEvent ht
    obtain ⟨hp, hm⟩ := (moves_time hmoves nofun).1 rfl
    have hlt := s.usPresc.isLt
    have hval : t.usPresc.val = (s.usPresc.val + 1) % 1000 := by rw [hp, timeBaseTick_usPresc]
    rw [timeBaseTick_nowMs] at hm
    refine ⟨t, ht, hval, fun h0 => ?_, fun h0 => ?_, moves_tick_frame hmoves⟩
    · rw [hm, if_pos (by omega), BitVec.toNat_add]
      rfl
    · rw [hm, if_neg (by omega)]
  · have hclock := clockUs_runEvents hes hrun
    have hlt := t.usPresc.isLt
    have hlt' := t.nowMs.isLt
    have hstart : clockUs s = 0 := by rw [clockUs, hp, hm]; rfl
    rw [hstart, clockUs] at hclock
    omega

/-! ### One sample -/

/-- The window test is inclusive (43_debounce.md R126). -/
theorem windowPassed_iff (now last : BitVec 32) : windowPassed now last = true ↔ 400 ≤ (elapsedMs now last).toNat :=
  decide_eq_true_iff

/-- An accepted edge: the line falls, and the window has passed (43_debounce.md R124, R126). -/
theorem accepts_iff (now : BitVec 32) (cur : Bool) (d : DebUnit) :
    d.accepts now cur = true ↔ d.prev = true ∧ cur = false ∧ 400 ≤ (now - d.lastTs).toNat := by
  rw [DebUnit.accepts, fallingEdge, Bool.and_eq_true, Bool.and_eq_true, Bool.not_eq_true', windowPassed_iff, and_assoc]
  rfl

theorem debStep_of_not_accepts {b : Button} {s : State} (h : (s.deb b).accepts s.nowMs (s.btn b) = false) :
    debStep b s = s.setDeb b { s.deb b with prev := s.btn b } := by
  simp [debStep, DebUnit.sample, h]

theorem debStep_of_accepts {b : Button} {s : State} (h : (s.deb b).accepts s.nowMs (s.btn b) = true) :
    debStep b s = (s.setDeb b ⟨s.nowMs, !(s.deb b).tog, s.btn b⟩).emitNotify ⟨b, !(s.deb b).tog⟩ := by
  simp [debStep, DebUnit.sample, h]

theorem stepEvent_deb_of_running {b : Button} {s : State} (hr : s.running = true) :
    stepEvent (.deb b) s = .next (debStep b s) := stepEvent_of_enabled hr

/-- Settles O54: `accepts_iff` tells the accepted edge from the two others. -/
theorem debounceSample : Obligations.DebounceSample := by
  intro b s hi hf
  rw [stepEvent_deb_of_running ((running_iff s).mpr ⟨hi, hf⟩)]
  have hquiet (hn : ¬((s.deb b).prev = true ∧ s.btn b = false ∧ 400 ≤ (s.nowMs - (s.deb b).lastTs).toNat)) :
      debStep b s = s.setDeb b { s.deb b with prev := s.btn b } :=
    debStep_of_not_accepts (Bool.eq_false_iff.mpr ((accepts_iff _ _ _).not.mpr hn))
  refine ⟨fun hn => ?_, fun hprev hlow hwindow => ?_, fun hprev hlow hwindow => ?_⟩
  · rw [hquiet fun ⟨hprev, hlow, _⟩ => hn ⟨hprev, hlow⟩]
  · rw [debStep_of_accepts ((accepts_iff _ _ _).mpr ⟨hprev, hlow, hwindow⟩), State.emitNotify, setDeb_evt, hlow]
  · rw [hquiet fun ⟨_, _, hge⟩ => by omega, hlow]

/-- Settles O56: the window test in general, at its boundary, across the wrap, and from the registers reset leaves. -/
theorem windowBoundaryInclusive : Obligations.WindowBoundaryInclusive := by
  have hreset (now : BitVec 32) : DebUnit.reset.accepts now false = true ↔ 400 ≤ now.toNat := by
    simp [accepts_iff, DebUnit.reset]
  refine ⟨fun now last => ⟨?_, windowPassed_iff now last⟩, by decide, by decide, by decide, by decide, by decide,
    fun now => ⟨hreset now, fun hge => ?_⟩⟩
  · have := last.isLt
    rw [elapsedMs, BitVec.toNat_sub]
    congr 1
    omega
  · rw [DebUnit.sample, if_pos ((hreset now).mpr hge)]
    rfl

/-! ### What a sample reads and writes -/

/-- The state after a DEB_b event: sampled in a block that runs, and otherwise the same (43_debounce.md R124). -/
def sampled (b : Button) (s : State) : State := if s.running then debStep b s else s

theorem stepEvent_deb (b : Button) (s : State) : stepEvent (.deb b) s = .next (sampled b s) :=
  (apply_ite Host.Outcome.next _ _ _).symm

/-- The record of a sample, if its edge is accepted (43_debounce.md R129). -/
def sampleRecords (b : Button) (s : State) : List Notify :=
  if (s.deb b).accepts s.nowMs (s.btn b) then [⟨b, ((s.deb b).sample s.nowMs (s.btn b)).tog⟩] else []

theorem debStep_eq_records (b : Button) (s : State) : debStep b s =
    { s.setDeb b ((s.deb b).sample s.nowMs (s.btn b)) with evt := s.evt ++ sampleRecords b s } := debStep_eq b s

theorem notifiedValues_sampleRecords_other {b b' : Button} (h : b' ≠ b) (s : State) :
    notifiedValues b (sampleRecords b' s) = [] := by
  rw [sampleRecords]
  split
  · rw [Invariant.notifiedValues_singleton, if_neg h]
  · rfl

theorem sampled_frame (b : Button) (s : State) : sampled b s =
    { s with deb0 := (sampled b s).deb0, deb1 := (sampled b s).deb1, evt := (sampled b s).evt } := by
  rw [sampled]
  split
  · rw [debStep_eq]
    cases b <;> rfl
  · rfl

theorem deb_sampled_other {b b' : Button} (h : b' ≠ b) (s : State) : (sampled b s).deb b' = s.deb b' := by
  rw [sampled]
  split
  · rw [debStep_eq]
    exact deb_setDeb_other b b' _ s h
  · rfl

/-- A sample reads no register of the other button. -/
theorem sampled_setDeb_other {b b' : Button} (h : b' ≠ b) (d : DebUnit) (s : State) :
    sampled b (s.setDeb b' d) = (sampled b s).setDeb b' d := by
  have hrunning : (s.setDeb b' d).running = s.running := by simp [State.running]
  rw [sampled, sampled, hrunning, apply_ite (State.setDeb b' d), debStep_eq, debStep_eq]
  match b, b', h with
  | .b0, .b1, _ | .b1, .b0, _ => rfl
  | .b0, .b0, h | .b1, .b1, h => exact absurd rfl h

/-- A sample reads none of PB, TX_STATE and CMD. -/
theorem sampled_matrix (b : Button) (s : State) (pb : Vector Pixel 25) (tx : TxState) (q : List Word) :
    sampled b { s with pb := pb, txState := tx, cmdQ := q } = { sampled b s with pb := pb, txState := tx, cmdQ := q } := by
  have hrunning : ({ s with pb := pb, txState := tx, cmdQ := q } : State).running = s.running := rfl
  rw [sampled, sampled, hrunning]
  split
  · rw [debStep_eq, debStep_eq]
    cases b <;> rfl
  · rfl

/-- Two samples in either order write the same registers and the same records, in the order of the samples. -/
theorem debStep_debStep (s : State) :
    debStep .b1 (debStep .b0 s) = { s with
      deb0 := s.deb0.sample s.nowMs s.btn0, deb1 := s.deb1.sample s.nowMs s.btn1
      evt := s.evt ++ sampleRecords .b0 s ++ sampleRecords .b1 s } ∧
    debStep .b0 (debStep .b1 s) = { s with
      deb0 := s.deb0.sample s.nowMs s.btn0, deb1 := s.deb1.sample s.nowMs s.btn1
      evt := s.evt ++ sampleRecords .b1 s ++ sampleRecords .b0 s } := by
  simp only [debStep_eq_records]
  exact ⟨rfl, rfl⟩

theorem runEvents_deb_deb (b b' : Button) (s : State) :
    runEvents [.deb b, .deb b'] s = .next (sampled b' (sampled b s)) := by
  simp only [runEvents, stepEvent_deb]

/-- Sampling the buttons in the other order changes the order of the records alone (43_debounce.md R133). -/
theorem sampled_comm (s : State) :
    sampled .b0 (sampled .b1 s) = { sampled .b1 (sampled .b0 s) with evt := (sampled .b0 (sampled .b1 s)).evt } ∧
      ∀ b, notifiedValues b (sampled .b0 (sampled .b1 s)).evt = notifiedValues b (sampled .b1 (sampled .b0 s)).evt := by
  cases hr : s.running with
  | false => simp [sampled, hr]
  | true =>
    have hrun (b b' : Button) : sampled b' (sampled b s) = debStep b' (debStep b s) := by
      have hb : (debStep b s).running = true := by rw [debStep_eq]; simpa [State.running] using hr
      rw [sampled, sampled, hr, if_pos rfl, hb, if_pos rfl]
    obtain ⟨h01, h10⟩ := debStep_debStep s
    rw [hrun, hrun, h01, h10]
    refine ⟨rfl, fun b => ?_⟩
    simp only [notifiedValues_append]
    cases b with
    | b0 => simp [notifiedValues_sampleRecords_other (show Button.b1 ≠ .b0 by decide)]
    | b1 => simp [notifiedValues_sampleRecords_other (show Button.b0 ≠ .b1 by decide)]

/-- Settles O57: `sampled_comm`, and a sample neither writes nor reads the other button's registers. -/
theorem buttonsAreIndependent : Obligations.ButtonsAreIndependent := by
  refine ⟨fun s => ?_, fun b b' d s hne => ?_⟩
  · obtain ⟨hstate, hrecords⟩ := sampled_comm s
    exact ⟨_, _, runEvents_deb_deb .b0 .b1 s, runEvents_deb_deb .b1 .b0 s, hstate, hrecords⟩
  · exact ⟨_, stepEvent_deb b s, deb_sampled_other hne s, by rw [stepEvent_deb, sampled_setDeb_other hne]⟩

/-- Settles O58: `sampled_frame` and `sampled_matrix`. -/
theorem debounceNeverTouchesMatrix : Obligations.DebounceNeverTouchesMatrix := by
  refine ⟨fun b s => ⟨_, stepEvent_deb b s, sampled_frame b s, fun b' hne => deb_sampled_other hne s⟩, ?_⟩
  intro b s t pb tx q h
  obtain rfl := Host.Outcome.next.inj ((stepEvent_deb b s).symm.trans h)
  rw [stepEvent_deb, sampled_matrix]

/-! ### Runs -/

/-- What relates the two states of every step of a run, and is reflexive and transitive, relates the two ends of the run. -/
theorem runEvents_rel {R : State → State → Prop} {es : List Event} {s t : State} (hrefl : ∀ s, R s s)
    (htrans : ∀ s u t, R s u → R u t → R s t) (hstep : ∀ e ∈ es, ∀ s u, stepEvent e s = .next u → R s u)
    (hrun : runEvents es s = .next t) : R s t := by
  induction es generalizing s with
  | nil =>
    obtain rfl := Host.Outcome.next.inj hrun
    exact hrefl s
  | cons e es ih =>
    obtain ⟨hfirst, hrest⟩ := List.forall_mem_cons.mp hstep
    obtain ⟨u, hu, hrun'⟩ := runEvents_cons hrun
    exact htrans s u t (hfirst s u hu) (ih hrest hrun')

/-! ### Toggles -/

/-- EVT has grown, and TOG[b] differs by the parity of the new records of b (43_debounce.md R128, R134). -/
def TogglesBy (b : Button) (s t : State) : Prop :=
  ∃ more, t.evt = s.evt ++ more ∧ (t.deb b).tog = ((s.deb b).tog ^^ (notifiedValues b more).length.bodd)

theorem TogglesBy.of_same {b : Button} {s t : State} (hevt : t.evt = s.evt) (htog : (t.deb b).tog = (s.deb b).tog) :
    TogglesBy b s t := ⟨[], by simp [hevt], by simp [htog, notifiedValues]⟩

theorem TogglesBy.trans {b : Button} {s u t : State} (h : TogglesBy b s u) (h' : TogglesBy b u t) : TogglesBy b s t := by
  obtain ⟨l, hevt, htog⟩ := h
  obtain ⟨m, hevt', htog'⟩ := h'
  refine ⟨l ++ m, by rw [hevt', hevt, List.append_assoc], ?_⟩
  rw [htog', htog, notifiedValues_append, List.length_append, Nat.bodd_add, Bool.xor_assoc]

theorem togglesBy_of_stepEvent {e : Event} {s t : State} (b : Button) (h : stepEvent e s = .next t) (hne : e ≠ .reset) :
    TogglesBy b s t := by
  rcases moves_deb (moves_of_stepEvent h) hne b with ⟨hevt, htog, -⟩ | ⟨b', -, -, hevt, hsame, hother⟩
  · exact .of_same hevt htog
  · refine ⟨_, hevt, ?_⟩
    rw [Invariant.notifiedValues_singleton]
    by_cases hb : b = b'
    · subst hb
      simp [(hsame rfl).1]
    · simp [(hother hb).1, Ne.symm hb]

/-- Settles O59: `TogglesBy` over the run, read for each parity. -/
theorem togglesFollowAcceptedEdges : Obligations.TogglesFollowAcceptedEdges := by
  intro es s t b hes hrun
  obtain ⟨more, hevt, htog⟩ : TogglesBy b s t := runEvents_rel (fun _ => .of_same rfl rfl) (fun _ _ _ => .trans)
    (fun e he _ _ h => togglesBy_of_stepEvent b h (hes e he)) hrun
  have hparity := Nat.mod_two_of_bodd (notifiedValues b more).length
  refine ⟨more, hevt, fun heven => ?_, fun hodd => ?_⟩
  · rw [heven] at hparity
    rw [htog, (Bool.toNat_eq_zero.mp hparity.symm), Bool.xor_false]
  · rw [hodd] at hparity
    rw [htog, (Bool.toNat_eq_one.mp hparity.symm), Bool.xor_true]

/-! ### A held line -/

/-- No command touches a button's registers or its line (40_mapper_and_buffer.md R90). -/
theorem exec_button {i : Instr} {s t : State} (h : exec i s = .next t) (b : Button) :
    t.deb b = s.deb b ∧ t.btn b = s.btn b := by
  rcases exec_cases i s with ⟨-, hx⟩ | hx | ⟨_, hx⟩ | ⟨_, hx⟩ | ⟨_, hx⟩ | ⟨_, hx⟩ | ⟨_, hx⟩ <;>
    obtain rfl := Host.Outcome.next.inj (hx.symm.trans h) <;> cases b <;> exact ⟨rfl, rfl⟩

/-- The line is still, and PREV[b] is as it was or the level of the line (43_debounce.md R124). -/
theorem moves_prev {e : Event} {s t : State} {b : Button} (h : Moves e s t) (hreset : e ≠ .reset)
    (hline : ∀ level, e ≠ .button b level) :
    t.btn b = s.btn b ∧ ((t.deb b).prev = (s.deb b).prev ∨ (t.deb b).prev = s.btn b) := by
  cases h with
  | reset => exact absurd rfl hreset
  | @host s _ rest _ _ _ hx =>
    obtain ⟨hdeb, hbtn⟩ := exec_button hx b
    rw [hdeb, hbtn]
    cases b <;> exact ⟨rfl, .inl rfl⟩
  | init => rw [initStep_frame]; cases b <;> exact ⟨rfl, .inl rfl⟩
  | tick | tickHold | tickLatch => rw [timeBaseTick_frame]; cases b <;> exact ⟨rfl, .inl rfl⟩
  | @debQuiet _ b' | @debAccept _ b' =>
    by_cases hb : b = b'
    · subst hb
      simp
    · simp [deb_setDeb_other _ _ _ _ hb]
  | @button _ b' level =>
    have hb : b ≠ b' := by
      rintro rfl
      exact hline level rfl
    simp [btn_setBtn_other _ _ _ _ hb]
  | _ => cases b <;> exact ⟨rfl, .inl rfl⟩

/-- The last sample of b saw the level its line has. -/
def Seen (b : Button) (s : State) : Prop := (s.deb b).prev = s.btn b

/-- Nothing has happened to b: no record is added, and its registers and its line are as they were. -/
structure ButtonKept (b : Button) (s t : State) : Prop where
  records : notifiedValues b t.evt = notifiedValues b s.evt
  tog : (t.deb b).tog = (s.deb b).tog
  lastTs : (t.deb b).lastTs = (s.deb b).lastTs
  prev : (t.deb b).prev = (s.deb b).prev
  line : t.btn b = s.btn b

theorem ButtonKept.refl (b : Button) (s : State) : ButtonKept b s s := ⟨rfl, rfl, rfl, rfl, rfl⟩

theorem ButtonKept.trans {b : Button} {s u t : State} (h : ButtonKept b s u) (h' : ButtonKept b u t) : ButtonKept b s t :=
  ⟨h'.records.trans h.records, h'.tog.trans h.tog, h'.lastTs.trans h.lastTs, h'.prev.trans h.prev, h'.line.trans h.line⟩

theorem ButtonKept.seen {b : Button} {s t : State} (h : ButtonKept b s t) (hs : Seen b s) : Seen b t :=
  h.prev.trans (hs.trans h.line.symm)

/-- A level that has been seen already is no edge (43_debounce.md R125). -/
theorem not_accepts_of_seen {b : Button} {s : State} (hs : Seen b s) : (s.deb b).accepts s.nowMs (s.btn b) ≠ true := by
  rw [Ne, accepts_iff, hs]
  rintro ⟨hhigh, hlow, -⟩
  rw [hhigh] at hlow
  cases hlow

/-- While the line stays at a level already seen, no step but reset does anything to b. -/
theorem buttonKept_of_stepEvent {e : Event} {s t : State} {b : Button} (h : stepEvent e s = .next t) (hreset : e ≠ .reset)
    (hline : ∀ level, e ≠ .button b level) (hs : Seen b s) : ButtonKept b s t := by
  have hm := moves_of_stepEvent h
  obtain ⟨hbtn, hprev⟩ := moves_prev hm hreset hline
  have hprev' : (t.deb b).prev = (s.deb b).prev := hprev.elim id fun hlevel => hlevel.trans hs.symm
  rcases moves_deb hm hreset b with ⟨hevt, htog, hlast⟩ | ⟨b', -, hacc, hevt, -, hother⟩
  · exact ⟨by rw [hevt], htog, hlast, hprev', hbtn⟩
  · have hb : b ≠ b' := by
      rintro rfl
      exact not_accepts_of_seen hs hacc
    obtain ⟨htog, hlast⟩ := hother hb
    refine ⟨?_, htog, hlast, hprev', hbtn⟩
    rw [hevt, notifiedValues_append, Invariant.notifiedValues_singleton, if_neg hb.symm, List.append_nil]

theorem sample_prev (now : BitVec 32) (cur : Bool) (d : DebUnit) : (d.sample now cur).prev = cur := by
  rw [DebUnit.sample]
  split <;> rfl

/-- After a sample its level has been seen (43_debounce.md R124). -/
theorem seen_debStep (b : Button) (s : State) : Seen b (debStep b s) := by
  rw [debStep_eq]
  cases b <;> exact sample_prev _ _ _

/-- Settles O55: the sample has seen the level, and from then on each step of the run leaves b alone. -/
theorem heldLineYieldsOneEdge : Obligations.HeldLineYieldsOneEdge := by
  intro b s t u es hi hf ht hes hrun
  rw [stepEvent_deb_of_running ((running_iff s).mpr ⟨hi, hf⟩)] at ht
  obtain rfl := Host.Outcome.next.inj ht
  have hkept : Seen b (debStep b s) → ButtonKept b (debStep b s) u :=
    runEvents_rel (R := fun v w => Seen b v → ButtonKept b v w) (fun v _ => .refl b v)
      (fun _ _ _ h h' hv => (h hv).trans (h' ((h hv).seen hv)))
      (fun e he _ _ h => buttonKept_of_stepEvent h (hes e he).1 (hes e he).2) hrun
  obtain ⟨hrecords, htog, hlast, hprev, -⟩ := hkept (seen_debStep b s)
  exact ⟨hrecords, htog, hlast, hprev⟩

end Sys2Proof.Proofs.Debounce
end

section
/-! PROOF. The statements about errors (60_exceptions.md): which command records which error (R136), what raising one writes and
that the step completes (R137), reserved opcodes (R138), and the block without a channel (R140). -/

namespace Sys2Proof.Proofs.Exceptions

open Sys2Proof Sys2Proof.Machine Sys2Proof.Proofs

/-! ### The error of a command -/

/-- A command with a cause in the table raises that error and does nothing else (60_exceptions.md R136, R137). -/
theorem exec_of_errorCause_some {i : Instr} {c : ErrorCause} (h : errorCause i = some c) (s : State) :
    exec i s = .next (s.raiseError c) := by
  cases i with
  | nop | clear | setcolor | start => cases h
  | setxy x y =>
    obtain ⟨hoff, ⟨⟩⟩ := Option.ite_none_right_eq_some.mp h
    exact exec_setxy_offGrid x y hoff s
  | render d =>
    obtain ⟨hd, ⟨⟩⟩ := Option.ite_none_right_eq_some.mp h
    exact exec_render_noDigit d hd s
  | map x y =>
    obtain ⟨hoff, ⟨⟩⟩ := Option.ite_none_right_eq_some.mp h
    exact exec_map_offGrid x y hoff s
  | rdpix k =>
    obtain ⟨hk, ⟨⟩⟩ := Option.ite_none_right_eq_some.mp h
    exact exec_rdpix_outOfRange k hk s
  | reserved =>
    cases h
    rfl

/-- A command without a cause in the table leaves the error registers alone (60_exceptions.md R136). -/
theorem exec_of_errorCause_none {i : Instr} (h : errorCause i = none) (s : State) :
    ∃ t, exec i s = .next t ∧ t.err = s.err ∧ t.errCode = s.errCode := by
  cases i with
  | nop | clear | setcolor | start => exact ⟨_, rfl, rfl, rfl⟩
  | setxy x y =>
    have hon : ¬(5 ≤ x.toNat ∨ 5 ≤ y.toNat) := by simpa [errorCause] using h
    exact ⟨_, exec_setxy_onGrid x y (by omega) (by omega) s, rfl, rfl⟩
  | render d =>
    have hd : ¬10 ≤ d.toNat := by simpa [errorCause] using h
    exact ⟨_, exec_render_digit d (by omega) s, rfl, rfl⟩
  | map x y =>
    have hon : ¬(5 ≤ x.toNat ∨ 5 ≤ y.toNat) := by simpa [errorCause] using h
    exact ⟨_, exec_map_onGrid x y (by omega) (by omega) s, rfl, rfl⟩
  | rdpix k =>
    have hk : ¬25 ≤ k.toNat := by simpa [errorCause] using h
    exact ⟨_, exec_rdpix_inRange k (by omega) s, rfl, rfl⟩
  | reserved => cases h

/-! ### FATAL -/

/-- No command writes FATAL (60_exceptions.md R136). -/
theorem exec_fatal {i : Instr} {s t : State} (h : exec i s = .next t) : t.fatal = s.fatal := by
  rcases exec_cases i s with ⟨-, hx⟩ | hx | ⟨_, hx⟩ | ⟨_, hx⟩ | ⟨_, hx⟩ | ⟨_, hx⟩ | ⟨_, hx⟩ <;>
    obtain rfl := Host.Outcome.next.inj (hx.symm.trans h) <;> rfl

/-- FATAL comes from INIT alone, and only when neither bank has a channel (42_transmitter.md R101, 60_exceptions.md R136). -/
theorem moves_fatal {e : Event} {s t : State} (h : Moves e s t) (hne : e ≠ .reset) :
    t.fatal = s.fatal ∨ (e = .init ∧ t.fatal = true ∧ Config.bankAvail 0 = false ∧ Config.bankAvail 1 = false) := by
  cases h with
  | reset => exact absurd rfl hne
  | init =>
    rcases initStep_cases s with ⟨-, h⟩ | ⟨-, -, h⟩ | ⟨h0, h1, h⟩ <;> rw [h]
    · exact .inl rfl
    · exact .inl rfl
    · exact .inr ⟨rfl, rfl, h0, h1⟩
  | @host _ _ rest _ _ _ hx => exact .inl (exec_fatal (s := { s with cmdQ := rest }) hx)
  | tick | tickHold | tickLatch => left; rw [timeBaseTick_frame]
  | debQuiet | debAccept | button => left; simp
  | _ => exact .inl rfl

/-- Settles O23: the commands by their cause in the table, and the steps by `moves_error` and `moves_fatal`. -/
theorem onlyListedErrorsRecorded : Obligations.OnlyListedErrorsRecorded := by
  refine ⟨⟨rfl, rfl, rfl, rfl⟩, fun i s c hc => exec_of_errorCause_some hc s, fun i s hc => exec_of_errorCause_none hc s,
    fun e s t h hne => ?_⟩
  have hm := moves_of_stepEvent h
  refine ⟨fun hhost => ?_, moves_fatal hm hne⟩
  rcases Registers.moves_error hm hne with hkept | ⟨he, -⟩
  · exact hkept
  · exact absurd he hhost

/-! ### A block without a channel -/

/-- A block that does not run accepts no word (10_state.md R43). -/
theorem cmdReady_of_not_running {s : State} (hr : s.running = false) (w : Word) : s.cmdReady w = false := by
  by_contra hready
  obtain ⟨hrun, -⟩ := (cmdReady_iff w s).mp (by simpa using hready)
  exact absurd hrun (by simp [hr])

/-- Once INIT has happened, a block that does not run has TMR as its only agent (60_exceptions.md R140). -/
theorem enabled_of_not_running {s : State} (hi : s.initDone = true) (hr : s.running = false) {e : Event}
    (he : e ∈ [Event.host, .init, .txd, .txs, .deb .b0, .deb .b1]) : enabled e s = false := by
  cases e with
  | host =>
    cases hq : s.cmdQ with
    | nil => simp [enabled, State.cmdWord, hq]
    | cons w rest => rw [Registers.enabled_host_cons hq, cmdReady_of_not_running hr]
  | init => simp [enabled, hi]
  | txd => simp [enabled, State.txdEnabled, hr]
  | txs => simp [enabled, State.bitEnabled, State.loadEnabled, hr]
  | deb => exact hr
  | tick | read | present | button | reset => simp at he

/-- The state of a block without a channel: that of reset but for the two registers INIT has set, the time base, and what is not
the block's (60_exceptions.md R140). -/
theorem eq_reset_of_fatal {s : State} (hs : BlockInv s) (hf : s.fatal = true) : s = { State.reset with
    initDone := true, fatal := true, usPresc := s.usPresc, nowMs := s.nowMs
    cmdQ := s.cmdQ, btn0 := s.btn0, btn1 := s.btn1, script := s.script, freeCount := s.freeCount } := by
  have hok : s.chOk = false := by simpa [hf] using hs.chOk_iff
  have hd := hs.dormant ((running_false_iff s).mpr (.inr hf))
  rwa [Dormant, hs.fatal_init hf, hf, hok, hs.bank_zero hok] at hd

/-- Of the ways an event can go, an idle block that does not run once INIT has happened is left with time and the inputs
(60_exceptions.md R140). -/
theorem moves_frame_of_not_running {e : Event} {s t : State} (h : Moves e s t) (hi : s.initDone = true)
    (hr : s.running = false) (hidle : s.txState = .idle) (hne : e ≠ .reset) :
    t = { s with usPresc := t.usPresc, nowMs := t.nowMs, cmdQ := t.cmdQ, btn0 := t.btn0, btn1 := t.btn1 } := by
  cases h with
  | stall | read | present => rfl
  | tick => rw [timeBaseTick_frame]
  | @button _ b => cases b <;> rfl
  | reset => exact absurd rfl hne
  | init hn => exact nomatch hi.symm.trans hn
  | txd hrun | load hrun | bit hrun | lastBit hrun | debQuiet hrun | debAccept hrun => exact nomatch hr.symm.trans hrun
  | tickHold hhold | tickLatch hhold => exact nomatch hidle.symm.trans hhold
  | @host _ w _ _ _ hready => exact nomatch (cmdReady_of_not_running hr w).symm.trans hready

/-- A block that does not run leaves the presented words on the port; more may join them (10_state.md R43). -/
theorem cmdQ_of_not_running {e : Event} {s t : State} (h : stepEvent e s = .next t) (hr : s.running = false) :
    ∃ more, t.cmdQ = s.cmdQ ++ more := by
  rcases Memory.commandsTakenInOrder e s t h with hq | ⟨-, w, -, hready⟩ | ⟨w, -, hq⟩
  · exact ⟨[], by rw [hq, List.append_nil]⟩
  · exact nomatch (cmdReady_of_not_running hr w).symm.trans hready
  · exact ⟨[w], hq⟩

/-- Settles O50: what can be read is read off `eq_reset_of_fatal`, and a block that does not run has no step but time and the
inputs. -/
theorem fatalUntilReset : Obligations.FatalUntilReset := by
  intro s hs hf
  have hi := hs.fatal_init hf
  have hr : s.running = false := (running_false_iff s).mpr (.inr hf)
  have heq := eq_reset_of_fatal hs hf
  have hidle : s.txState = .idle := congrArg State.txState heq
  have hstatus : s.status = 0x00000804 := by
    have hbare : ({ State.reset with initDone := true, fatal := true } : State).status = 0x00000804 := by decide
    rw [heq]
    exact hbare
  have hind0 : s.ind .b0 = false := congrArg (State.ind · .b0) heq
  have hind1 : s.ind .b1 = false := congrArg (State.ind · .b1) heq
  refine ⟨cmdReady_of_not_running hr, fun _ => enabled_of_not_running hi hr, rfl, hstatus, hidle, rfl, hind0, hind1,
    fun e t hne h => ?_⟩
  have hm := moves_of_stepEvent h
  obtain ⟨-, htime⟩ := moves_time hm hne
  refine ⟨moves_frame_of_not_running hm hi hr hidle hne, htime, fun w rest hq => ?_⟩
  rw [← hq]
  exact cmdQ_of_not_running h hr

/-! ### Raising an error, and reserved opcodes -/

/-- Bit 31 alone tells the reserved opcodes from the others (60_exceptions.md R138). -/
theorem eight_le_opcode {w : Word} (h : w.getLsbD 31 = true) : 8 ≤ w.toNat / 2 ^ 28 := by
  have hmsb : w.msb = true := (BitVec.msb_eq_getLsbD_last w).trans h
  rw [BitVec.msb_eq_decide, decide_eq_true_iff] at hmsb
  omega

/-- Settles O21: bit 31 selects the decoder's last row, and OP is not that of START; the example is evaluated. -/
theorem reservedRaisesIllegalOpcode : Obligations.ReservedRaisesIllegalOpcode := by
  refine ⟨fun w h => ?_, fun _ _ => rfl, _, rfl, by decide⟩
  have hop := eight_le_opcode h
  obtain ⟨-, -, -, -, -, -, -, -, hdecode, -⟩ := Encoding.decodeFollowsOpcode w
  obtain ⟨hready, -⟩ := Registers.hostHeldUntilReady
  have hnotStart (s : State) : ¬(w.toNat / 2 ^ 28 = 5 ∧ s.txState = .settle) := by omega
  refine ⟨hdecode hop, fun s => ?_⟩
  rw [hready, and_iff_left (hnotStart s)]

/-- Settles O22: the two writes of `State.raiseError`, and the HOST step as the command run after its word has left the port. -/
theorem raiseErrorKeepsFirstCode : Obligations.RaiseErrorKeepsFirstCode := by
  refine ⟨fun c s => ⟨rfl, fun h => ?_, fun h => ?_, rfl⟩, fun w rest s c hq hready hc => ?_⟩
  · rw [raiseError_errCode, if_pos h]
  · rw [raiseError_errCode, if_neg h]
  · rw [Scope.stepEvent_host_ready hq hready, exec_of_errorCause_some hc]

end Sys2Proof.Proofs.Exceptions
end

section
/-! PROOF. The statements about reset (70_reset_and_hazards.md): the values it gives (R155), the invariant they meet, and which
agents can step after it (R156). -/

namespace Sys2Proof.Proofs.Reset

open Sys2Proof Sys2Proof.Machine Sys2Proof.Proofs

/-! ### The state reset leaves -/

/-- Reset is never held back (70_reset_and_hazards.md R155). -/
theorem stepEvent_reset (s : State) : stepEvent .reset s = .next s.hardReset := stepEvent_of_enabled rfl

/-- The state right after reset is one that reset leaves as it is. -/
theorem hardReset_reset : State.reset.hardReset = State.reset := rfl

/-- STATUS shows only registers of the block, so after reset it is that of `State.reset` (10_state.md R41). -/
theorem status_hardReset (s : State) : s.hardReset.status = State.reset.status := rfl

/-- Settles O30: the registers of `State.hardReset` are those of `State.reset`, its buffer is black, and its STATUS is evaluated. -/
theorem resetGivesResetValues : Obligations.ResetGivesResetValues := by
  intro s
  have hstatus : s.hardReset.status = 0x00000000 := by
    rw [status_hardReset]
    exact Registers.statusLayout.2
  refine ⟨s.hardReset, stepEvent_reset s, readPixel_blackBuffer, rfl, rfl, rfl, rfl, rfl, rfl, rfl, rfl, rfl, rfl, rfl, rfl,
    rfl, rfl, rfl, rfl, rfl, rfl, rfl, rfl, rfl, hstatus, rfl, rfl, rfl, ?_⟩
  rintro rfl
  exact hardReset_reset

/-- Settles O51: reset keeps the invariant from any state, from its own fixed point too. -/
theorem invariantAtReset : Obligations.InvariantAtReset := by
  unfold Obligations.InvariantAtReset
  rw [← hardReset_reset]
  exact Invariant.blockInv_hardReset State.reset

/-! ### The agents after reset -/

/-- HOST, TXD, TXS and the samples step only in a block that runs (10_state.md R28, R29, R43, 43_debounce.md R123). -/
theorem running_of_enabled {e : Event} {s : State} (he : e ∈ [Event.host, .txd, .txs, .deb .b0, .deb .b1])
    (h : enabled e s = true) : s.running = true := by
  cases e with
  | host =>
    cases hq : s.cmdQ with
    | nil => simp [enabled, State.cmdWord, hq] at h
    | cons w rest =>
      rw [Registers.enabled_host_cons hq] at h
      exact ((cmdReady_iff w s).mp h).1
  | txd => exact ((txdEnabled_iff s).mp h).1
  | txs =>
    rcases Bool.or_eq_true_iff.mp h with hbit | hload
    · exact ((bitEnabled_iff s).mp hbit).1
    · exact ((loadEnabled_iff s).mp hload).1
  | deb => exact h
  | init | tick | read | present | button | reset => simp at he

/-- INIT has no second step (42_transmitter.md R101). -/
theorem init_disabled {s : State} (hi : s.initDone = true) : enabled .init s = false := by
  obtain ⟨-, honce, -⟩ := Transmitter.initAcquiresChannel
  exact honce s hi

/-- INIT leaves INIT_DONE set, whether it steps or has stepped before (42_transmitter.md R101). -/
theorem initDone_of_init {s t : State} (h : Moves .init s t) : t.initDone = true := by
  cases h with
  | stall hdone => simpa [enabled] using hdone
  | init => rw [initStep_frame]

/-- No command writes INIT_DONE (40_mapper_and_buffer.md R90). -/
theorem exec_initDone {i : Instr} {s t : State} (h : exec i s = .next t) : t.initDone = s.initDone := by
  rcases exec_cases i s with ⟨-, hx⟩ | hx | ⟨_, hx⟩ | ⟨_, hx⟩ | ⟨_, hx⟩ | ⟨_, hx⟩ | ⟨_, hx⟩ <;>
    obtain rfl := Host.Outcome.next.inj (hx.symm.trans h) <;> rfl

/-- No step but INIT and reset writes INIT_DONE (10_state.md R28). -/
theorem moves_initDone {e : Event} {s t : State} (h : Moves e s t) (hinit : e ≠ .init) (hreset : e ≠ .reset) :
    t.initDone = s.initDone := by
  cases h with
  | init => exact absurd rfl hinit
  | reset => exact absurd rfl hreset
  | @host _ _ rest _ _ _ hx => exact exec_initDone (s := { s with cmdQ := rest }) hx
  | tick | tickHold | tickLatch => rw [timeBaseTick_frame]
  | debQuiet | debAccept | button => simp
  | _ => rfl

/-- Once INIT has happened, nothing but reset changes INIT_DONE or FATAL: a further INIT stalls (70_reset_and_hazards.md R156). -/
theorem initResult_kept {e : Event} {s t : State} (h : stepEvent e s = .next t) (hne : e ≠ .reset) (hi : s.initDone = true) :
    t.initDone = true ∧ t.fatal = s.fatal := by
  by_cases he : e = .init
  · subst he
    rw [stepEvent_of_disabled (init_disabled hi)] at h
    obtain rfl := Host.Outcome.next.inj h
    exact ⟨hi, rfl⟩
  · have hm := moves_of_stepEvent h
    refine ⟨(moves_initDone hm he hne).trans hi, ?_⟩
    rcases Exceptions.moves_fatal hm hne with hkept | ⟨hinit, -⟩
    · exact hkept
    · exact absurd hinit he

/-- Settles O31: INIT waits for INIT_DONE = 0 alone and TMR for nothing; the other agents need a block that runs
(`running_of_enabled`); and INIT decides INIT_DONE and FATAL until the next reset (`initDone_of_init`, `initResult_kept`). -/
theorem agentsEnabledAfterReset : Obligations.AgentsEnabledAfterReset := by
  refine ⟨fun s t h => ?_, fun s hwait e he => ?_, fun s => init_disabled, fun e s t h hne => ⟨initResult_kept h hne, ?_⟩⟩
  · rw [stepEvent_reset] at h
    obtain rfl := Host.Outcome.next.inj h
    exact ⟨rfl, rfl⟩
  · have hstopped : s.running = false := (running_false_iff s).mpr hwait
    rw [Bool.eq_false_iff]
    intro hen
    exact absurd (running_of_enabled he hen) (by simp [hstopped])
  · rintro rfl
    exact initDone_of_init (moves_of_stepEvent h)

end Sys2Proof.Proofs.Reset
end
